-- ==== Sys2Proof/Word.lean ====
section
/-!
DEFINITION. The word types of the block and the two-channel pair.

`F32` is a binary32 bit pattern (00_scope R9), `Word` a bus word (20_memory R100), `Addr` a byte
address of the register space (20_memory R100), `Ptr` a FIFO pointer (41_fifo R271, PW = 6).
-/

namespace Sys2Proof

/-- A 32-bit register-bus word (20_memory R100, R104). -/
abbrev Word := BitVec 32

/-- An IEEE 754 binary32 bit pattern (00_scope R9). -/
abbrev F32 := BitVec 32

/-- A byte address of the 16-bit register space (20_memory R100). -/
abbrev Addr := BitVec 16

/-- The four byte strobes `bus_wstrb` of a write (30_encoding R141). -/
abbrev Strobes := BitVec 4

/-- A FIFO pointer: a PW-bit binary counter or its Gray code (41_fifo R271, R272). -/
abbrev Ptr := BitVec 6

/-- A whole audio frame as the 65 bits `LAST, D1, D0` (30_encoding R142). -/
abbrev FrameBits := BitVec 65

/-- The two audio channels: `left` is channel 0, `right` is channel 1 (00_scope R5, R11). -/
inductive Ch where
  | left
  | right
  deriving DecidableEq, Repr, Inhabited

/-- The channel number as one bit, the operand CH of the CC command format (30_encoding R144). -/
def Ch.ofBit (b : Bool) : Ch := if b then .right else .left

/-- The bit that names a channel (30_encoding R144). -/
def Ch.bit : Ch → Bool
  | .left => false
  | .right => true

/-- One value for each channel. -/
structure PerCh (α : Type) where
  left : α
  right : α
  deriving DecidableEq, Repr

/-- Channel `c`'s value. -/
def PerCh.get {α : Type} (p : PerCh α) : Ch → α
  | .left => p.left
  | .right => p.right

/-- `p` with channel `c`'s value replaced. -/
def PerCh.set {α : Type} (p : PerCh α) (c : Ch) (x : α) : PerCh α :=
  match c with
  | .left => { p with left := x }
  | .right => { p with right := x }

/-- The five coefficient words of a section, `k = 0 .. 4` in this order (00_scope R11). -/
inductive Tap where
  | b0
  | b1
  | b2
  | a1
  | a2
  deriving DecidableEq, Repr

/-- The tap index `k` (00_scope R11). -/
def Tap.index : Tap → Nat
  | .b0 => 0
  | .b1 => 1
  | .b2 => 2
  | .a1 => 3
  | .a2 => 4

/-- The tap of an index; offsets 5 to 7 of a section are unmapped (10_state R53, R54). -/
def Tap.ofIndex : Nat → Option Tap
  | 0 => some .b0
  | 1 => some .b1
  | 2 => some .b2
  | 3 => some .a1
  | 4 => some .a2
  | _ => none

/-- Section numbers in signal order: LC0..LC3, PK, HC0..HC3 (00_scope R11). -/
abbrev Sec := Fin 9

end Sys2Proof
end

