-- ==== Sys2Proof/Machine/Float.lean ====
section
/-!
DEFINITION. IEEE 754 binary32 arithmetic (00_scope R9): round to nearest, ties to even, subnormals kept,
no fused multiply-add, every NaN result the canonical NaN.

Magnitudes are exact natural numbers of UNITS of 2^-149, the smallest subnormal; each operation computes
its exact result as a ratio of units and rounds once.
-/

namespace Sys2Proof.Machine

/-- The exponent field, bits 30:23 (00_scope R9). -/
def f32Exp (a : F32) : Nat := (a.extractLsb' 23 8).toNat

/-- The fraction field, bits 22:0 (00_scope R9). -/
def f32Frac (a : F32) : Nat := (a.extractLsb' 0 23).toNat

/-- The sign, bit 31 (00_scope R9). -/
def f32Sign (a : F32) : Bool := a.getLsbD 31

/-- `isnan` (00_scope R9). -/
def f32IsNaN (a : F32) : Bool := f32Exp a == 255 && f32Frac a != 0

/-- An infinity of either sign. -/
def f32IsInf (a : F32) : Bool := f32Exp a == 255 && f32Frac a == 0

/-- `isfinite` (00_scope R9). -/
def f32IsFinite (a : F32) : Bool := f32Exp a != 255

/-- +0.0 or -0.0. -/
def f32IsZero (a : F32) : Bool := f32Exp a == 0 && f32Frac a == 0

/-- +0.0 (00_scope R9). -/
def f32Zero : F32 := 0x00000000#32

/-- +infinity. -/
def f32Inf : F32 := 0x7F800000#32

/-- The canonical NaN (00_scope R9). -/
def f32NaN : F32 := 0x7FC00000#32

/-- 1.0. -/
def f32One : F32 := 0x3F800000#32

/-- The exact magnitude of a finite value in units of 2^-149. -/
def f32Mag (a : F32) : Nat :=
  if f32Exp a = 0 then f32Frac a else (2 ^ 23 + f32Frac a) * 2 ^ (f32Exp a - 1)

/-- The exact value of a finite pattern in units of 2^-149. -/
def f32Units (a : F32) : Int := if f32Sign a then -(f32Mag a : Int) else (f32Mag a : Int)

/-- The rational value of a finite pattern. -/
def f32Rat (a : F32) : ℚ := (f32Units a : ℚ) / 2 ^ 149

/-- `num / den` rounded to the nearest integer, ties to even. -/
def roundHalfEven (num den : Nat) : Nat :=
  let q := num / den
  let r := num % den
  if den < 2 * r ∨ (2 * r = den ∧ q % 2 = 1) then q + 1 else q

/-- The magnitude bits (30:0) of the binary32 nearest to `num / den` units, ties to even; too large a
ratio gives the infinity's. A normal magnitude keeps 24 bits, so the quantum is `2^e` units; the
biased form `e * 2^23 + quotient` carries into the exponent by itself. -/
def roundMag (num den : Nat) : Nat :=
  let e := (num / den).log2 - 23
  min (e * 2 ^ 23 + roundHalfEven num (den * 2 ^ e)) 0x7F800000

/-- The pattern of a sign and magnitude bits. -/
def f32Pack (sign : Bool) (mag : Nat) : F32 := BitVec.ofBool sign ++ BitVec.ofNat 31 mag

/-- The pattern with the sign flipped. -/
def f32Neg (a : F32) : F32 := a ^^^ 0x80000000#32

/-- The pattern with the sign cleared. -/
def f32Abs (a : F32) : F32 := a &&& 0x7FFFFFFF#32

/-- `fadd` (00_scope R9). -/
def fadd (a b : F32) : F32 :=
  if f32IsNaN a || f32IsNaN b then f32NaN
  else if f32IsInf a then
    if f32IsInf b && f32Sign a != f32Sign b then f32NaN else a
  else if f32IsInf b then b
  else
    let u := f32Units a + f32Units b
    if u = 0 then f32Pack (f32Sign a && f32Sign b) 0
    else f32Pack (decide (u < 0)) (roundMag u.natAbs 1)

/-- `fsub` (00_scope R9). -/
def fsub (a b : F32) : F32 := fadd a (f32Neg b)

/-- `fmul` (00_scope R9). -/
def fmul (a b : F32) : F32 :=
  let sign := f32Sign a != f32Sign b
  if f32IsNaN a || f32IsNaN b then f32NaN
  else if f32IsInf a || f32IsInf b then
    if f32IsZero a || f32IsZero b then f32NaN else f32Pack sign 0x7F800000
  else f32Pack sign (roundMag (f32Mag a * f32Mag b) (2 ^ 149))

/-- `fdiv` (00_scope R9). -/
def fdiv (a b : F32) : F32 :=
  let sign := f32Sign a != f32Sign b
  if f32IsNaN a || f32IsNaN b then f32NaN
  else if f32IsInf a then
    if f32IsInf b then f32NaN else f32Pack sign 0x7F800000
  else if f32IsInf b then f32Pack sign 0
  else if f32IsZero b then
    if f32IsZero a then f32NaN else f32Pack sign 0x7F800000
  else f32Pack sign (roundMag (f32Mag a * 2 ^ 149) (f32Mag b))

/-- The order key of a pattern that is no NaN: its magnitude bits, negated for a set sign, so that the two
zeros have one key. -/
def f32Key (a : F32) : Int :=
  if f32Sign a then -((f32Abs a).toNat : Int) else ((f32Abs a).toNat : Int)

/-- IEEE `<`, false on a NaN (00_scope R9). -/
def flt (a b : F32) : Bool := !f32IsNaN a && !f32IsNaN b && decide (f32Key a < f32Key b)

/-- IEEE `<=`, false on a NaN (00_scope R9). -/
def fle (a b : F32) : Bool := !f32IsNaN a && !f32IsNaN b && decide (f32Key a ≤ f32Key b)

/-- `f32(n)`, the binary32 of a natural number (43_spectrum R345). -/
def f32OfNat (n : Nat) : F32 := f32Pack false (roundMag (n * 2 ^ 149) 1)

end Sys2Proof.Machine
end

