-- ==== Sys2Proof/Config.lean ====
section
/-!
DEFINITION. What the implementation fixes (00_scope R5) and the free values of the spec.

The numbers are those of the "this hardware" column of R5. The `opaque` constants have no body:
they are the parameters R5 and 93_implementation_defined (U6, U8, U9, U10, U13) leave to the model as
arguments, so a claim about the model holds whatever they are. The transform comes with its tolerance and
its required properties; those of `WIN_F` and `DB20` are laid over the raw parameters in
`Sys2Proof.Machine.Params` (log 5).
-/

namespace Sys2Proof.Config

open Sys2Proof.Machine

/-- NCH, the number of audio channels (00_scope R5). -/
def nch : Nat := 2

/-- NCUT, the number of sections of a cut bank (00_scope R5). -/
def ncut : Nat := 4

/-- N, the FIFO capacity in snapshots (00_scope R5, 41_fifo R270). -/
def capacity : Nat := 30

/-- SLOTS, the number of physical FIFO slots (00_scope R5, 41_fifo R271). -/
def slots : Nat := 32

/-- SYNC_STAGES, reported by PARAMS only (00_scope R5, 10_state R35). -/
def syncStages : Nat := 2

/-- The smallest legal FFT order (00_scope R5). -/
def minOrder : Nat := 11

/-- The largest legal FFT order (00_scope R5). -/
def maxOrder : Nat := 13

/-- MAXL, the largest accumulation length (00_scope R5). -/
def maxLen : Nat := 8192

/-- The identification word (10_state R34). -/
def idWord : Word := 0x53455101#32

/-- The agents of 00_scope R6 that can move next, and the reset event of 70_reset R480. FFT[c] and the
two FIFO-A synchronisers are named with their channel. -/
inductive Turn where
  /-- HOST_BUS performs its next bus access. -/
  | hostBus
  /-- AUDIO_SRC offers its next frame. -/
  | audioSrc
  /-- AUDIO_SINK is ready for an output frame. -/
  | audioSink
  /-- AUDIO takes APPLY. -/
  | audio
  /-- SYNC takes SYNC_ACK. -/
  | syncAck
  /-- SYNC takes SYNC_W2R of a channel. -/
  | syncW2R (c : Ch)
  /-- SYNC takes SYNC_R2W of a channel. -/
  | syncR2W (c : Ch)
  /-- FFT[c] takes FFT_STEP. -/
  | fft (c : Ch)
  /-- `rst_n` is asserted and released. -/
  | reset
  deriving DecidableEq, Repr, Inhabited

/-- DESIGN CHOICE (log 3): which agent moves when State lists no further turn; the order of steps is
the schedule's (70_reset R495, U13). -/
opaque freeTurn : Nat → Turn

/-- The value of the n-th read of CHAIN_LIVE or COEF_LIVE made while COMMIT_PENDING = 1
(40_filter_chain R211, U6). -/
opaque liveReadback : Nat → Word

/-- The raw window parameter: entry `i` of the table of size `F` (43_spectrum R341, U8). -/
opaque winRaw : Nat → Nat → F32

/-- FFT-P4 of a transform for a value of FFT_TOL (43_spectrum R342): while no bin is infinite, each bin of a
finite sequence is within FFT_TOL times the sum of the input magnitudes of the magnitude of the unnormalised
forward transform. -/
def FftAccurate (tol : ℚ) (mag : Nat → List F32 → Nat → F32) : Prop :=
  ∀ size ∈ [2048, 4096, 8192], ∀ w : List F32, w.length = size →
    (∀ x ∈ w, f32IsFinite x = true) →
    (∀ k < size / 2, f32IsInf (mag size w k) = false) →
    ∀ k < size / 2,
      |((f32Rat (mag size w k) : ℚ) : ℝ) -
        ‖∑ n ∈ Finset.range size, (((f32Rat (w.getD n f32Zero) : ℚ) : ℝ) : ℂ) *
          Complex.exp (-2 * Real.pi * Complex.I * k * n / size)‖| ≤
      (tol : ℝ) * (w.map fun x => |((f32Rat x : ℚ) : ℝ)|).sum

/-- A transform FFTMAG_F for each legal F, bin by bin, with its tolerance FFT_TOL and the properties the spec
requires of it (43_spectrum R342). -/
structure Transform where
  /-- FFT_TOL (00_scope R5). -/
  tol : ℚ
  /-- Bin `k` of `FFTMAG_F` of a sequence. -/
  mag : Nat → List F32 → Nat → F32
  /-- FFT-P1. -/
  zero : ∀ size ∈ [2048, 4096, 8192], ∀ w : List F32, w.length = size →
    (∀ x ∈ w, x = 0x00000000#32 ∨ x = 0x80000000#32) → ∀ k < size / 2, mag size w k = 0x00000000#32
  /-- FFT-P2. -/
  sign : ∀ size ∈ [2048, 4096, 8192], ∀ w : List F32, w.length = size → ∀ k < size / 2,
    f32IsNaN (mag size w k) = true ∨ f32Sign (mag size w k) = false
  /-- FFT-P3. -/
  noNaN : ∀ size ∈ [2048, 4096, 8192], ∀ w : List F32, w.length = size →
    (∀ x ∈ w, f32IsFinite x = true) → ∀ k < size / 2, f32IsNaN (mag size w k) = false
  /-- FFT-P4. -/
  accurate : FftAccurate tol mag

/-- FFTMAG_F and FFT_TOL (00_scope R5, 43_spectrum R342, U9): any transform the spec allows. The argument only
says that there is one. -/
opaque transform [Inhabited Transform] : Transform

/-- The raw decibel parameter (43_spectrum R343, U10). -/
opaque db20Raw : F32 → F32

/-- The raw accuracy bound DB_TOL, in dB (00_scope R5, U10). -/
opaque dbTolRaw : ℚ

end Sys2Proof.Config
end

