-- ==== Sys2Proof/Syntax.lean ====
section
/-!
DEFINITION. The operations of the block: one constructor of `Instr` for every row of
spec/opcode_table.json (30_encoding R140, R152), and the transfers that carry the encoded ones.
-/

namespace Sys2Proof

/-- A bus access as an operand: a read, or a write with its strobes and data (30_encoding R141). -/
inductive Access where
  | rd
  | wr (st : Strobes) (v : Word)
  deriving DecidableEq, Repr

/-- The mapped registers, one value for each mapped word address (44_control R407). -/
inductive Reg where
  | id
  | params
  | ctrl
  | chainCfg
  | chainLive
  | status
  | cmd
  | cmdResult
  | fftCfg
  | accLen
  | accLenLive
  | silenceFloor
  | fifoaLevel (c : Ch)
  | fifobLevel (c : Ch)
  | fifoaPtr (c : Ch)
  | fifobPtr (c : Ch)
  | outbufInfo (c : Ch)
  | histCnt (c : Ch)
  | errInfo
  | coef (s : Sec) (k : Tap)
  | coefLive (s : Sec) (k : Tap)
  | outbuf (c : Ch) (j : BitVec 12)
  deriving DecidableEq, Repr

/-- A decoded command word (30_encoding R145, R148); `reserved` is every illegal word (R146). -/
inductive Cmd where
  | nop
  | commit
  | prepare
  | clearState
  | setFftOrder (ord : BitVec 4)
  | pullFrame (c : Ch)
  | pullLatest (c : Ch)
  | reserved (w : Word)
  deriving DecidableEq, Repr

/-- Every row of the opcode table. Writes carry their strobes `st` and data word `v`; rows that stand
for several addresses carry the address fields. -/
inductive Instr where
  -- command words (formats C0, CO, CC)
  | nop
  | commit
  | prepare
  | clearState
  | setFftOrder (ord : BitVec 4)
  | pullFrame (c : Ch)
  | pullLatest (c : Ch)
  | cmdReserved (w : Word)
  -- the checks before every access (format BUS)
  | busReadChecks (a : Addr)
  | busWriteChecks (a : Addr) (st : Strobes) (v : Word)
  -- single registers (format BUS)
  | rdId
  | wrId (st : Strobes) (v : Word)
  | rdParams
  | wrParams (st : Strobes) (v : Word)
  | rdCtrl
  | wrCtrl (st : Strobes) (v : Word)
  | rdChainCfg
  | wrChainCfg (st : Strobes) (v : Word)
  | rdChainLive
  | wrChainLive (st : Strobes) (v : Word)
  | rdStatus
  | wrStatus (st : Strobes) (v : Word)
  | rdCmd
  | wrCmd (st : Strobes) (v : Word)
  | rdCmdResult
  | wrCmdResult (st : Strobes) (v : Word)
  | rdFftCfg
  | wrFftCfg (st : Strobes) (v : Word)
  | rdAccLen
  | wrAccLen (st : Strobes) (v : Word)
  | rdAccLenLive
  | wrAccLenLive (st : Strobes) (v : Word)
  | rdSilenceFloor
  | wrSilenceFloor (st : Strobes) (v : Word)
  | rdErrInfo
  | wrErrInfo (st : Strobes) (v : Word)
  -- one register for each channel (format BUS, c = ADDR[2])
  | rdFifoaLevel (c : Ch)
  | wrFifoaLevel (c : Ch) (st : Strobes) (v : Word)
  | rdFifobLevel (c : Ch)
  | wrFifobLevel (c : Ch) (st : Strobes) (v : Word)
  | rdFifoaPtr (c : Ch)
  | wrFifoaPtr (c : Ch) (st : Strobes) (v : Word)
  | rdFifobPtr (c : Ch)
  | wrFifobPtr (c : Ch) (st : Strobes) (v : Word)
  | rdOutbufInfo (c : Ch)
  | wrOutbufInfo (c : Ch) (st : Strobes) (v : Word)
  | rdHistCnt (c : Ch)
  | wrHistCnt (c : Ch) (st : Strobes) (v : Word)
  -- coefficients (format BUS): sections 0..7 and section 8 are separate rows
  | rdCoefS07 (s : BitVec 3) (k : Tap)
  | rdCoefS8 (k : Tap)
  | wrCoefS07 (s : BitVec 3) (k : Tap) (st : Strobes) (v : Word)
  | wrCoefS8 (k : Tap) (st : Strobes) (v : Word)
  | rdCoefLiveS07 (s : BitVec 3) (k : Tap)
  | rdCoefLiveS8 (k : Tap)
  | wrCoefLiveS07 (s : BitVec 3) (k : Tap) (st : Strobes) (v : Word)
  | wrCoefLiveS8 (k : Tap) (st : Strobes) (v : Word)
  -- output buffers (format BUS, j = ADDR[13:2])
  | rdOutbuf0 (j : BitVec 12)
  | wrOutbuf0 (j : BitVec 12) (st : Strobes) (v : Word)
  | rdOutbuf1 (j : BitVec 12)
  | wrOutbuf1 (j : BitVec 12) (st : Strobes) (v : Word)
  | busUnmapped (acc : Access) (a : Addr)
  -- stream transfers (formats STREAM_IN, STREAM_OUT)
  | frame (last : Bool) (d1 d0 : F32)
  | take
  -- internal operations (no encoding, 30_encoding R152)
  | ingest (c : Ch) (v : F32)
  | apply
  | syncAck
  | syncW2R (c : Ch)
  | syncR2W (c : Ch)
  | fftStep (c : Ch)
  deriving DecidableEq, Repr

/-- What HOST_BUS issues (30_encoding R140): a bus access (classes 1 and 2), or a command word, which
is a full-strobe write of that word to CMD (class 3).

DESIGN CHOICE (log 2): the spec numbers only bits 16:0 of a bus access, WE over ADDR; the model packs
the rest above them: bits 20:17 the byte lanes that are NOT strobed (the complement of `bus_wstrb`, so
that a table word with nothing above it is a full-word access) and bits 52:21 WDATA. -/
inductive BusOp where
  | access (w : BitVec 53)
  | command (w : Word)
  deriving DecidableEq, Repr

/-- An encoded operation on one of the ports (30_encoding R141 to R143). -/
inductive Transfer where
  | bus (b : BusOp)
  | streamIn (f : FrameBits)
  | streamOut
  deriving DecidableEq, Repr

end Sys2Proof
end

