-- ==== Sys2Proof/Machine/State.lean ====
section
/-!
DEFINITION. The state of the block (10_state section 2 and 3), the record of its ports, the schedule, and
the state after reset (70_reset_and_hazards R481).
-/

namespace Sys2Proof.Machine

/-- The reasons the machine stops with a fault: NONE. An error of this block is the refusal of one bus
access, after which it goes on (60_exceptions R440); the streams and the internal steps raise no error
(R446). The type has no constructor, so no run ends in a fault (log 17, safe). -/
inductive Fault where
  deriving DecidableEq, Repr

/-- The reasons an instruction has no meaning. -/
inductive Refusal where
  /-- Raised only by an arm of `exec` whose instruction has no meaning yet; no arm raises it (safe). -/
  | notModelled (mnemonic : String)
  deriving DecidableEq, Repr

/-- The ten defined bits of CHAIN_CFG and CHAIN_LIVE (10_state R37, R38). -/
structure ChainCfg where
  lcByp : Bool
  pkByp : Bool
  hcByp : Bool
  lcSlope : BitVec 2
  hcSlope : BitVec 2
  deriving DecidableEq, Repr

/-- The coefficient words of one section, A0 = 1 (10_state R53, R56). -/
structure Taps where
  b0 : F32
  b1 : F32
  b2 : F32
  a1 : F32
  a2 : F32
  deriving DecidableEq, Repr

/-- A coefficient file: `SH` or `LV` (10_state R56). -/
structure CoefFile where
  coef : Vector Taps 9
  cfg : ChainCfg
  deriving DecidableEq, Repr

/-- The two delay registers of a section for one channel, `ST[s][c]` (10_state R57). -/
structure Delay where
  s1 : F32
  s2 : F32
  deriving DecidableEq, Repr

/-- An internal word memory (20_memory R109) as its (index, word) cells in one canonical form: indices
strictly rising, and no cell holding +0.0, which is what an unlisted index reads as (the reset value
of every such memory, 10_state R61, R65; the form is a DESIGN CHOICE, log 8). -/
abbrev Mem := List (Nat × F32)

/-- FIFO-A of a channel (10_state R62). `wsync` and `rsync` are Gray-coded views. -/
structure FifoA where
  wr : Ptr
  rd : Ptr
  wsync : Ptr
  rsync : Ptr
  slot : Vector (List F32) 32
  deriving DecidableEq, Repr

/-- A FIFO-B snapshot: an FFT frame of `len` decibel values (10_state R63). -/
structure Spectrum where
  len : BitVec 13
  data : List F32
  deriving DecidableEq, Repr

/-- FIFO-B of a channel (10_state R63). -/
structure FifoB where
  wr : Ptr
  rd : Ptr
  slot : Vector Spectrum 32
  deriving DecidableEq, Repr

/-- The output buffer of a channel (10_state R65). -/
structure OutBuf where
  valid : Bool
  len : BitVec 13
  data : Mem
  deriving DecidableEq, Repr

/-- Everything the block holds for one channel. -/
structure Chan where
  /-- `ST[.][c]`, delay state (10_state R57). -/
  st : Vector Delay 9
  /-- `ACC[c]`, the accumulator words (10_state R61). -/
  acc : Mem
  /-- `ACNT[c]` (10_state R61). -/
  acnt : Nat
  /-- `FA[c]` (10_state R62). -/
  fa : FifoA
  /-- `H[c]`, the FFT history, oldest sample first (10_state R64). -/
  hist : List F32
  /-- `HCNT[c]` (10_state R51, R64). -/
  hcnt : BitVec 14
  /-- `FB[c]` (10_state R63). -/
  fb : FifoB
  /-- `OB[c]` (10_state R65). -/
  ob : OutBuf
  deriving DecidableEq, Repr

/-- CTRL (10_state R36). -/
structure Ctrl where
  run : Bool
  fftEn : Bool
  tapPre : Bool
  deriving DecidableEq, Repr

/-- ERR_INFO (10_state R52). -/
structure ErrInfo where
  code : BitVec 8
  addr : Addr
  deriving DecidableEq, Repr

/-- CMD_RESULT (10_state R41). -/
structure CmdResult where
  code : BitVec 2
  opc : BitVec 8
  count : BitVec 8
  deriving DecidableEq, Repr

/-- The output holding register `OUT` (10_state R60). -/
structure OutReg where
  full : Bool
  y0 : F32
  y1 : F32
  last : Bool
  deriving DecidableEq, Repr

/-- The response to a bus access: ERR and, for a read, RDATA (30_encoding R141). A write returns no
data. -/
structure BusResp where
  err : Bool
  rdata : Option Word
  deriving DecidableEq, Repr

/-- The state of the block, of its ports and of the schedule. -/
structure State where
  /-- `LV`, the live coefficient sets and configuration (10_state R38, R54, R56). -/
  lv : CoefFile
  /-- `SH`, the shadow (10_state R37, R53, R56). -/
  sh : CoefFile
  /-- `ATB`, the block-boundary flag (10_state R58). -/
  atb : Bool
  /-- `PEND_A`, the audio side of the commit handshake (10_state R59). -/
  pendA : Bool
  /-- `PEND_C` = STATUS.COMMIT_PENDING (10_state R39, R59). -/
  pendC : Bool
  /-- `OUT` (10_state R60). -/
  out : OutReg
  /-- CTRL (10_state R36). -/
  ctrl : Ctrl
  /-- FFT_ORDER (10_state R42). -/
  fftOrder : BitVec 4
  /-- ACC_LEN (10_state R43). -/
  accLen : BitVec 14
  /-- `LLIVE` = ACC_LEN_LIVE (10_state R44). -/
  llive : BitVec 14
  /-- `FLOOR` = SILENCE_FLOOR (10_state R45). -/
  floor : F32
  /-- STATUS.BUS_ERR (10_state R39). -/
  busErr : Bool
  /-- STATUS.CFG_ERR (10_state R39). -/
  cfgErr : Bool
  /-- ERR_INFO (10_state R52). -/
  err : ErrInfo
  /-- CMD_RESULT (10_state R41). -/
  res : CmdResult
  /-- The state of each channel. -/
  ch : PerCh Chan
  /-- The response of the latest bus access since reset (ports `bus_rdata`, `bus_err`, 10_state R70;
  log 4). -/
  resp : Option BusResp
  /-- MODEL FIELD: the frames AUDIO_SINK has received, oldest first (40_filter_chain R204 `deliver`;
  log 4). -/
  taken : List FrameBits
  /-- MODEL FIELD: the agents that move next, in order (70_reset R495, U13; log 1). -/
  turns : List Config.Turn
  /-- MODEL FIELD: the accesses HOST_BUS will issue, in order (20_memory R111; log 1). -/
  busQ : List BusOp
  /-- MODEL FIELD: the frames AUDIO_SRC will offer, in order (20_memory R115; log 1). -/
  srcQ : List FrameBits
  /-- MODEL FIELD: how many free values have been drawn (logs 3 and 7). -/
  free : Nat
  deriving DecidableEq, Repr

/-- The identity section (10_state R53): B0 = 1.0, every other tap +0.0. -/
def Taps.identity : Taps := ⟨0x3F800000#32, 0#32, 0#32, 0#32, 0#32⟩

/-- CHAIN_CFG after reset, 0x007: three bypasses, slopes 0 (10_state R37). -/
def ChainCfg.reset : ChainCfg := ⟨true, true, true, 0#2, 0#2⟩

/-- A coefficient file after reset (10_state R56). -/
def CoefFile.reset : CoefFile := ⟨Vector.replicate 9 Taps.identity, ChainCfg.reset⟩

/-- Cleared delay registers (10_state R57). -/
def Delay.zero : Delay := ⟨0#32, 0#32⟩

/-- FIFO-A after reset: every slot the empty sequence (10_state R62). -/
def FifoA.reset : FifoA := ⟨0#6, 0#6, 0#6, 0#6, Vector.replicate 32 []⟩

/-- FIFO-B after reset: every slot (0, []) (10_state R63). -/
def FifoB.reset : FifoB := ⟨0#6, 0#6, Vector.replicate 32 ⟨0#13, []⟩⟩

/-- A channel after reset (70_reset R481): the history is 2048 copies of +0.0. -/
def Chan.reset : Chan where
  st := Vector.replicate 9 Delay.zero
  acc := []
  acnt := 0
  fa := FifoA.reset
  hist := List.replicate 2048 0#32
  hcnt := 0#14
  fb := FifoB.reset
  ob := ⟨false, 0#13, []⟩

/-- The machine right after reset (70_reset R481): the block's state as the table states it, no
response yet, nothing delivered, and nothing placed in the model's own schedule and queues
(DESIGN CHOICE, log 16). -/
def State.reset : State where
  lv := CoefFile.reset
  sh := CoefFile.reset
  atb := true
  pendA := false
  pendC := false
  out := ⟨false, 0#32, 0#32, false⟩
  ctrl := ⟨false, false, false⟩
  fftOrder := 11#4
  accLen := 2048#14
  llive := 2048#14
  floor := 0xC2400000#32
  busErr := false
  cfgErr := false
  err := ⟨0#8, 0#16⟩
  res := ⟨0#2, 0#8, 0#8⟩
  ch := ⟨Chan.reset, Chan.reset⟩
  resp := none
  taken := []
  turns := []
  busQ := []
  srcQ := []
  free := 0

end Sys2Proof.Machine
end

