-- ==== Sys2Proof/Machine/Flags.lean ====
section
/-!
DEFINITION. The flags (10_state R67): STATUS and its sticky bits, and the classes of the error codes. No
operation sets a flag from an arithmetic result.
-/

namespace Sys2Proof.Machine

/-- The eight errors (60_exceptions R441). -/
inductive ErrCode where
  | misaligned
  | partialWrite
  | unmapped
  | readOnly
  | illegalCmd
  | precondition
  | badValue
  | shadowLocked
  deriving DecidableEq, Repr

/-- The code of an error (60_exceptions R441). -/
def errNum : ErrCode → BitVec 8
  | .misaligned => 1#8
  | .partialWrite => 2#8
  | .unmapped => 3#8
  | .readOnly => 4#8
  | .illegalCmd => 5#8
  | .precondition => 6#8
  | .badValue => 7#8
  | .shadowLocked => 8#8

/-- Class BUS, codes 1 to 4; the others are of class CFG (60_exceptions R441, R443). -/
def errIsBus : ErrCode → Bool
  | .misaligned | .partialWrite | .unmapped | .readOnly => true
  | .illegalCmd | .precondition | .badValue | .shadowLocked => false

/-- Codes 5 to 7, which CMD_RESULT reports at CMD (60_exceptions R443). -/
def errIsCmdRefusal : ErrCode → Bool
  | .illegalCmd | .precondition | .badValue => true
  | .misaligned | .partialWrite | .unmapped | .readOnly | .shadowLocked => false

/-- STATUS as a word (44_control R397). -/
def statusWord (s : State) : Word :=
  0#26 ++ BitVec.ofBool s.cfgErr ++ BitVec.ofBool s.busErr ++ 0#3 ++ BitVec.ofBool s.pendC

/-- BUS_ERR after an error: set by class BUS (60_exceptions R443). -/
def stickyBus (c : ErrCode) (s : State) : Bool := if errIsBus c then true else s.busErr

/-- CFG_ERR after an error: set by class CFG (60_exceptions R443). -/
def stickyCfg (c : ErrCode) (s : State) : Bool := if errIsBus c then s.cfgErr else true

/-- The write-one-to-clear bits of STATUS (44_control R396). -/
def clearSticky (v : Word) (s : State) : State :=
  { s with busErr := s.busErr && !v.getLsbD 4, cfgErr := s.cfgErr && !v.getLsbD 5 }

end Sys2Proof.Machine
end

