-- ==== Sys2Proof/Machine/Mem.lean ====
section
/-!
DEFINITION. The internal word memories (20_memory R109): the accumulators `ACC[c]` and the output buffers
`OB[c].data`. An index that no cell lists reads as +0.0, the reset value of both (10_state R61, R65).
-/

namespace Sys2Proof.Machine

/-- The word at an index. -/
def memRead : Mem → Nat → F32
  | [], _ => 0#32
  | (a, v) :: m, i => if i = a then v else memRead m i

/-- The memory with the word at an index replaced; writing +0.0 removes the cell, so that equal contents
are equal data. -/
def memWrite : Mem → Nat → F32 → Mem
  | [], i, v => if v = 0#32 then [] else [(i, v)]
  | (a, w) :: m, i, v =>
    if i < a then (if v = 0#32 then (a, w) :: m else (i, v) :: (a, w) :: m)
    else if i = a then (if v = 0#32 then m else (i, v) :: m)
    else (a, w) :: memWrite m i v

/-- The canonical cells of a sequence laid out from index `i` on. -/
def seqCells : Nat → List F32 → Mem
  | _, [] => []
  | i, v :: vs => if v = 0#32 then seqCells (i + 1) vs else (i, v) :: seqCells (i + 1) vs

/-- The memory with its first `d.length` words replaced by `d` (41_fifo R280
`data[0..len-1] <- d`); later words keep their contents. -/
def memStoreSeq (m : Mem) (d : List F32) : Mem :=
  seqCells 0 d ++ m.filter fun e => decide (d.length ≤ e.1)

/-- The first `n` words in order (42_collector R321 `[ACC[c][0], ..., ACC[c][n-1]]`). -/
def memPrefix (m : Mem) (n : Nat) : List F32 := (List.range n).map (memRead m)

/-- The canonical form above a bound: indices from `lo` on, strictly rising, no +0.0 cell. -/
def memWfFrom : Nat → Mem → Bool
  | _, [] => true
  | lo, (a, v) :: m => decide (lo ≤ a) && v != 0#32 && memWfFrom (a + 1) m

/-- The canonical form of a memory. -/
def memWf (m : Mem) : Bool := memWfFrom 0 m

end Sys2Proof.Machine
end

