-- ==== Sys2Proof/Machine/Encoding.lean ====
section
/-!
DEFINITION. Fields of encoded words, the address map and the command map
(30_encoding R141 to R148, 44_control R407).
-/

namespace Sys2Proof.Machine

/-! ## Bus access words -/

/-- WE, bit 16 of a bus access (30_encoding R141). -/
def busWe (w : BitVec 53) : Bool := w.getLsbD 16

/-- ADDR, bits 15:0 of a bus access (30_encoding R141). -/
def busAddr (w : BitVec 53) : Addr := w.extractLsb' 0 16

/-- WSTRB of a bus access; bits 20:17 hold its complement (log 2). -/
def busStrobes (w : BitVec 53) : Strobes := ~~~ (w.extractLsb' 17 4)

/-- WDATA of a bus access, bits 52:21 (log 2). -/
def busData (w : BitVec 53) : Word := w.extractLsb' 21 32

/-- The bus access word of a read of address `a` (30_encoding R141; WSTRB and WDATA are not used). -/
def readWord (a : Addr) : BitVec 53 := 0#32 ++ 0#4 ++ 0#1 ++ a

/-- The bus access word of a write of `v` with strobes `st` to address `a` (30_encoding R141). -/
def writeWord (a : Addr) (st : Strobes) (v : Word) : BitVec 53 := v ++ (~~~ st) ++ 1#1 ++ a

/-- An access is misaligned when `a[1:0]` is not zero (20_memory R103). -/
def misaligned (a : Addr) : Bool := a.toNat % 4 != 0

/-! ## The address map -/

/-- The registers of the range 0x0000 to 0x0063 with their addresses (10_state R33, 44_control R407). -/
def lowMap : List (Nat × Reg) :=
  [(0x0000, .id), (0x0004, .params), (0x0008, .ctrl), (0x000C, .chainCfg), (0x0010, .chainLive),
   (0x0014, .status), (0x0018, .cmd), (0x001C, .cmdResult), (0x0020, .fftCfg), (0x0024, .accLen),
   (0x0028, .accLenLive), (0x002C, .silenceFloor),
   (0x0030, .fifoaLevel .left), (0x0034, .fifoaLevel .right),
   (0x0038, .fifobLevel .left), (0x003C, .fifobLevel .right),
   (0x0040, .fifoaPtr .left), (0x0044, .fifoaPtr .right),
   (0x0048, .fifobPtr .left), (0x004C, .fifobPtr .right),
   (0x0050, .outbufInfo .left), (0x0054, .outbufInfo .right),
   (0x0058, .histCnt .left), (0x005C, .histCnt .right), (0x0060, .errInfo)]

/-- The coefficient word at byte offset `off` of a coefficient region, nine sections of eight words of
which five are mapped (10_state R53, R54). -/
def coefAt (off : Nat) : Option (Sec × Tap) :=
  if h : off / 0x20 < 9 then
    (Tap.ofIndex (off % 0x20 / 4)).map fun k => (⟨off / 0x20, h⟩, k)
  else none

/-- The register mapped at an address; `none` when the address is misaligned or not in the dispatch
table of 44_control R407. -/
def regAt (a : Addr) : Option Reg :=
  let n := a.toNat
  if n % 4 != 0 then none
  else if n < 0x100 then lowMap.lookup n
  else if 0x100 ≤ n && n < 0x220 then (coefAt (n - 0x100)).map fun p => .coef p.1 p.2
  else if 0x300 ≤ n && n < 0x420 then (coefAt (n - 0x300)).map fun p => .coefLive p.1 p.2
  else if 0x4000 ≤ n && n < 0x8000 then some (.outbuf .left (BitVec.ofNat 12 ((n - 0x4000) / 4)))
  else if 0x8000 ≤ n && n < 0xC000 then some (.outbuf .right (BitVec.ofNat 12 ((n - 0x8000) / 4)))
  else none

/-- The channel offset `4*c` of the per-channel registers (10_state R33). -/
def chanOffset (c : Ch) : Nat := if c.bit then 4 else 0

/-- The byte address of a register (10_state R33). -/
def regAddr : Reg → Addr
  | .id => 0x0000#16
  | .params => 0x0004#16
  | .ctrl => 0x0008#16
  | .chainCfg => 0x000C#16
  | .chainLive => 0x0010#16
  | .status => 0x0014#16
  | .cmd => 0x0018#16
  | .cmdResult => 0x001C#16
  | .fftCfg => 0x0020#16
  | .accLen => 0x0024#16
  | .accLenLive => 0x0028#16
  | .silenceFloor => 0x002C#16
  | .fifoaLevel c => BitVec.ofNat 16 (0x0030 + chanOffset c)
  | .fifobLevel c => BitVec.ofNat 16 (0x0038 + chanOffset c)
  | .fifoaPtr c => BitVec.ofNat 16 (0x0040 + chanOffset c)
  | .fifobPtr c => BitVec.ofNat 16 (0x0048 + chanOffset c)
  | .outbufInfo c => BitVec.ofNat 16 (0x0050 + chanOffset c)
  | .histCnt c => BitVec.ofNat 16 (0x0058 + chanOffset c)
  | .errInfo => 0x0060#16
  | .coef s k => BitVec.ofNat 16 (0x0100 + 0x20 * s.val + 4 * k.index)
  | .coefLive s k => BitVec.ofNat 16 (0x0300 + 0x20 * s.val + 4 * k.index)
  | .outbuf .left j => BitVec.ofNat 16 (0x4000 + 4 * j.toNat)
  | .outbuf .right j => BitVec.ofNat 16 (0x8000 + 4 * j.toNat)

/-- The section of a section field of the rows that stand for sections 0 to 7. -/
def secOf07 (s : BitVec 3) : Sec := ⟨s.toNat, by have := s.isLt; omega⟩

/-- The read row of a register: sections 0 to 7 and section 8 of the coefficient files have rows of
their own, as have the two output buffers. -/
def readRow : Reg → Instr
  | .id => .rdId
  | .params => .rdParams
  | .ctrl => .rdCtrl
  | .chainCfg => .rdChainCfg
  | .chainLive => .rdChainLive
  | .status => .rdStatus
  | .cmd => .rdCmd
  | .cmdResult => .rdCmdResult
  | .fftCfg => .rdFftCfg
  | .accLen => .rdAccLen
  | .accLenLive => .rdAccLenLive
  | .silenceFloor => .rdSilenceFloor
  | .fifoaLevel c => .rdFifoaLevel c
  | .fifobLevel c => .rdFifobLevel c
  | .fifoaPtr c => .rdFifoaPtr c
  | .fifobPtr c => .rdFifobPtr c
  | .outbufInfo c => .rdOutbufInfo c
  | .histCnt c => .rdHistCnt c
  | .errInfo => .rdErrInfo
  | .coef s k => if s.val = 8 then .rdCoefS8 k else .rdCoefS07 (BitVec.ofNat 3 s.val) k
  | .coefLive s k => if s.val = 8 then .rdCoefLiveS8 k else .rdCoefLiveS07 (BitVec.ofNat 3 s.val) k
  | .outbuf .left j => .rdOutbuf0 j
  | .outbuf .right j => .rdOutbuf1 j

/-- The write row of a register. -/
def writeRow (st : Strobes) (v : Word) : Reg → Instr
  | .id => .wrId st v
  | .params => .wrParams st v
  | .ctrl => .wrCtrl st v
  | .chainCfg => .wrChainCfg st v
  | .chainLive => .wrChainLive st v
  | .status => .wrStatus st v
  | .cmd => .wrCmd st v
  | .cmdResult => .wrCmdResult st v
  | .fftCfg => .wrFftCfg st v
  | .accLen => .wrAccLen st v
  | .accLenLive => .wrAccLenLive st v
  | .silenceFloor => .wrSilenceFloor st v
  | .fifoaLevel c => .wrFifoaLevel c st v
  | .fifobLevel c => .wrFifobLevel c st v
  | .fifoaPtr c => .wrFifoaPtr c st v
  | .fifobPtr c => .wrFifobPtr c st v
  | .outbufInfo c => .wrOutbufInfo c st v
  | .histCnt c => .wrHistCnt c st v
  | .errInfo => .wrErrInfo st v
  | .coef s k => if s.val = 8 then .wrCoefS8 k st v else .wrCoefS07 (BitVec.ofNat 3 s.val) k st v
  | .coefLive s k =>
    if s.val = 8 then .wrCoefLiveS8 k st v else .wrCoefLiveS07 (BitVec.ofNat 3 s.val) k st v
  | .outbuf .left j => .wrOutbuf0 j st v
  | .outbuf .right j => .wrOutbuf1 j st v

/-! ## Command words -/

/-- OPC, bits 31:24 of a command word (30_encoding R143). -/
def cmdOpc (w : Word) : BitVec 8 := w.extractLsb' 24 8

/-- Command decode (30_encoding R148). -/
def decodeCmd (w : Word) : Cmd :=
  if cmdOpc w = 0x00#8 ∧ w.extractLsb' 0 24 = 0#24 then .nop
  else if cmdOpc w = 0x01#8 ∧ w.extractLsb' 0 24 = 0#24 then .commit
  else if cmdOpc w = 0x02#8 ∧ w.extractLsb' 0 24 = 0#24 then .prepare
  else if cmdOpc w = 0x03#8 ∧ w.extractLsb' 0 24 = 0#24 then .clearState
  else if cmdOpc w = 0x04#8 ∧ w.extractLsb' 4 20 = 0#20 then .setFftOrder (w.extractLsb' 0 4)
  else if cmdOpc w = 0x05#8 ∧ w.extractLsb' 1 23 = 0#23 then .pullFrame (Ch.ofBit (w.getLsbD 0))
  else if cmdOpc w = 0x06#8 ∧ w.extractLsb' 1 23 = 0#23 then .pullLatest (Ch.ofBit (w.getLsbD 0))
  else .reserved w

/-- The opcode-table row of a decoded command word. -/
def cmdRow : Cmd → Instr
  | .nop => .nop
  | .commit => .commit
  | .prepare => .prepare
  | .clearState => .clearState
  | .setFftOrder ord => .setFftOrder ord
  | .pullFrame c => .pullFrame c
  | .pullLatest c => .pullLatest c
  | .reserved w => .cmdReserved w

/-- A command word of opcode `opc` with `arg` in its low 24 bits (30_encoding R143). -/
def cmdWord (opc : BitVec 8) (arg : BitVec 24) : Word := opc ++ arg

/-- The CH operand in bit 0 of a CC word (30_encoding R144). -/
def chArg (c : Ch) : BitVec 24 := if c.bit then 1#24 else 0#24

/-! ## Frames -/

/-- The 65 bits `LAST, D1, D0` of a frame (30_encoding R142). -/
def frameBits (last : Bool) (d1 d0 : F32) : FrameBits := BitVec.ofBool last ++ d1 ++ d0

end Sys2Proof.Machine
end

