-- ==== Sys2Proof/Machine/Operands.lean ====
section
/-!
DEFINITION. The layouts of the register words: how a register's fields make the 32 bits a read returns, and
which bits of a written word its fields take (10_state R34 to R52). Reserved bits read as 0 and are
dropped on a write.
-/

namespace Sys2Proof.Machine

/-- CTRL as a word (44_control R395). -/
def ctrlWord (c : Ctrl) : Word :=
  0#29 ++ BitVec.ofBool c.tapPre ++ BitVec.ofBool c.fftEn ++ BitVec.ofBool c.run

/-- The fields a CTRL write takes (44_control R394). -/
def ctrlOfWord (v : Word) : Ctrl := ⟨v.getLsbD 0, v.getLsbD 1, v.getLsbD 2⟩

/-- CHAIN_CFG or CHAIN_LIVE as a word (10_state R37, R38). -/
def cfgWord (c : ChainCfg) : Word :=
  0#22 ++ c.hcSlope ++ 0#2 ++ c.lcSlope ++ 0#1 ++ BitVec.ofBool c.hcByp ++ BitVec.ofBool c.pkByp ++
    BitVec.ofBool c.lcByp

/-- The fields a CHAIN_CFG write takes (40_filter_chain R210). -/
def cfgOfWord (v : Word) : ChainCfg :=
  ⟨v.getLsbD 0, v.getLsbD 1, v.getLsbD 2, v.extractLsb' 4 2, v.extractLsb' 8 2⟩

/-- PARAMS (44_control R393). -/
def paramsWord : Word :=
  0#4 ++ BitVec.ofNat 4 Config.syncStages ++ BitVec.ofNat 4 Config.minOrder ++
    BitVec.ofNat 4 Config.maxOrder ++ BitVec.ofNat 8 Config.capacity ++ BitVec.ofNat 4 Config.ncut ++
    BitVec.ofNat 4 Config.nch

/-- CMD_RESULT as a word (44_control R399). -/
def cmdResultWord (r : CmdResult) : Word := 0#8 ++ r.count ++ r.opc ++ 0#6 ++ r.code

/-- ERR_INFO as a word (44_control R404). -/
def errInfoWord (e : ErrInfo) : Word := e.addr ++ 0#8 ++ e.code

/-- OUTBUF_INFO as a word (41_fifo R284). -/
def outbufInfoWord (o : OutBuf) : Word := 0#3 ++ o.len ++ 0#15 ++ BitVec.ofBool o.valid

/-- A FIFO pointer register: a write-side Gray code over a read-side one (41_fifo R283). -/
def ptrWord (wrGray rdGray : Ptr) : Word := 0#16 ++ 0#2 ++ wrGray ++ 0#2 ++ rdGray

/-- The coefficient word of a tap (10_state R53). -/
def tapGet (t : Taps) : Tap → F32
  | .b0 => t.b0
  | .b1 => t.b1
  | .b2 => t.b2
  | .a1 => t.a1
  | .a2 => t.a2

/-- The section's coefficients with one tap replaced. -/
def tapSet (t : Taps) (k : Tap) (v : F32) : Taps :=
  match k with
  | .b0 => { t with b0 := v }
  | .b1 => { t with b1 := v }
  | .b2 => { t with b2 := v }
  | .a1 => { t with a1 := v }
  | .a2 => { t with a2 := v }

/-- The legal words of ACC_LEN: bits 31:14 zero and bits 13:0 in 1..8192 (42_collector R322). -/
def accLenLegal (v : Word) : Bool :=
  v.extractLsb' 14 18 == 0#18 && (v.extractLsb' 0 14).toNat != 0 &&
    decide ((v.extractLsb' 0 14).toNat ≤ Config.maxLen)

/-- The legal operands of SET_FFT_ORDER (43_spectrum R347). -/
def orderLegal (o : BitVec 4) : Bool :=
  decide (Config.minOrder ≤ o.toNat) && decide (o.toNat ≤ Config.maxOrder)

/-- The frame held in `OUT` as the output port drives it (10_state R70). -/
def outFrame (o : OutReg) : FrameBits := frameBits o.last o.y1 o.y0

/-- `s_ready` (10_state R70). -/
def sReady (s : State) : Bool := s.ctrl.run && !s.out.full

end Sys2Proof.Machine
end

