-- ==== Sys2Proof/Machine/Ops.lean ====
section
/-!
DEFINITION. The shared operations of a bus access: its response, raising an error (60_exceptions R440 to
R443), the strobe check of a write row, and the end of a command (44_control R398).
-/

namespace Sys2Proof.Machine

/-- What a meaning answers. -/
abbrev Outcome := Host.Outcome State Fault Refusal

/-- The response to a read: the value, no error (44_control R390). -/
def respond (v : Word) (s : State) : State := { s with resp := some ⟨false, some v⟩ }

/-- The response to a write that succeeds (44_control R391). -/
def ackWrite (s : State) : State := { s with resp := some ⟨false, none⟩ }

/-- ERR_INFO after an error: it records the first one since both sticky bits were clear
(60_exceptions R443). -/
def errAfter (c : ErrCode) (a : Addr) (s : State) : ErrInfo :=
  if s.busErr = false ∧ s.cfgErr = false then ⟨errNum c, a⟩ else s.err

/-- CMD_RESULT after an error: a refused command word `w` written to CMD is reported there
(60_exceptions R443, 44_control R398). -/
def resAfter (acc : Access) (c : ErrCode) (a : Addr) (s : State) : CmdResult :=
  match acc with
  | .rd => s.res
  | .wr _ w => if a = 0x0018#16 ∧ errIsCmdRefusal c then ⟨3#2, cmdOpc w, 0#8⟩ else s.res

/-- The data an error returns: 0 for a read, none for a write (60_exceptions R443; log 4). -/
def errData : Access → Option Word
  | .rd => some 0#32
  | .wr _ _ => none

/-- Raising an error on the access `acc` to address `a`, the block's one exception (60_exceptions R443):
ERR_INFO, the sticky bit of its class, CMD_RESULT for a refused command, `bus_err`, and 0 as a read's
data. Nothing is saved and no control moves (R440); there is nothing to return to (R444). -/
def raise (acc : Access) (c : ErrCode) (a : Addr) (s : State) : State :=
  { s with
    err := errAfter c a s
    busErr := stickyBus c s
    cfgErr := stickyCfg c s
    res := resAfter acc c a s
    resp := some ⟨true, errData acc⟩ }

/-- A write with strobes `st` to the mapped, aligned address of a register: a partial write is refused
before anything else (44_control R391, 20_memory R104); `body` is the register's write rule. -/
def strobed (a : Addr) (st : Strobes) (v : Word) (body : State → State) (s : State) : State :=
  if st = 0xF#4 then body s else raise (.wr st v) .partialWrite a s

/-- A write to a read-only register (44_control R405). -/
def refuseReadOnly (r : Reg) (st : Strobes) (v : Word) (s : State) : State :=
  strobed (regAddr r) st v (raise (.wr st v) .readOnly (regAddr r)) s

/-- The end of a command word that is not refused: CMD_RESULT and the response (44_control R398). -/
def finishCmd (code : BitVec 2) (opc : BitVec 8) (count : BitVec 8) (s : State) : State :=
  ackWrite { s with res := ⟨code, opc, count⟩ }

/-- A refusal of the command word `w` written to CMD. -/
def refuseCmd (c : ErrCode) (w : Word) (s : State) : State := raise (.wr 0xF#4 w) c 0x0018#16 s

/-- Channel `c`'s part of the state. -/
def getCh (s : State) (c : Ch) : Chan := s.ch.get c

/-- The state with channel `c`'s part replaced. -/
def setCh (s : State) (c : Ch) (x : Chan) : State := { s with ch := s.ch.set c x }

/-- The state with both channels' parts changed alike. -/
def mapCh (f : Chan → Chan) (s : State) : State := { s with ch := ⟨f s.ch.left, f s.ch.right⟩ }

/-- A read of a live register: while COMMIT_PENDING = 1 it returns any value, a free value, and the
counter of free values moves on (40_filter_chain R211; log 7). -/
def respondLive (v : Word) (s : State) : State :=
  if s.pendC then { respond (Config.liveReadback s.free) s with free := s.free + 1 } else respond v s

/-- The reset event: the block takes its reset values; what the environment has received, and what it
will still do, is not the block's (70_reset R480, R484; DEDUCED, log 14). -/
def resetBlock (s : State) : State :=
  { State.reset with
    taken := s.taken, turns := s.turns, busQ := s.busQ, srcQ := s.srcQ, free := s.free }

end Sys2Proof.Machine
end

