-- ==== Sys2Proof/Machine/Fifo.lean ====
section
/-!
DEFINITION. The Gray-counter FIFOs (41_fifo): pointers and views, PUSH, PULL, FLUSH, the synchroniser
steps, the pull commands and the read views.
-/

namespace Sys2Proof.Machine

/-! ## Pointers and views -/

/-- `gray(b)` (41_fifo R272). -/
def gray (b : Ptr) : Ptr := b ^^^ (b >>> 1)

/-- `gray2bin(g)`: bit i is the exclusive or of the bits i and above of g (41_fifo R272). -/
def gray2bin (g : Ptr) : Ptr :=
  g ^^^ (g >>> 1) ^^^ (g >>> 2) ^^^ (g >>> 3) ^^^ (g >>> 4) ^^^ (g >>> 5)

/-- The slot that a pointer addresses, `p mod SLOTS` (41_fifo R271). -/
def slotIx (p : Ptr) : Fin 32 := ⟨p.toNat % 32, Nat.mod_lt _ (by decide)⟩

/-- The producer's view of FIFO-A (41_fifo R273). -/
def levelW (f : FifoA) : Nat := (f.wr - gray2bin f.rsync).toNat

/-- The consumer's view of FIFO-A (41_fifo R273). -/
def levelR (f : FifoA) : Nat := (gray2bin f.wsync - f.rd).toNat

/-- The occupancy of FIFO-B (41_fifo R273). -/
def levelB (f : FifoB) : Nat := (f.wr - f.rd).toNat

/-! ## Primitives -/

/-- PUSH on FIFO-A: false and unchanged when full as the producer sees it (41_fifo R274). -/
def pushA (f : FifoA) (v : List F32) : Bool × FifoA :=
  if Config.capacity ≤ levelW f then (false, f)
  else (true, { f with slot := f.slot.set (slotIx f.wr) v, wr := f.wr + 1 })

/-- PUSH on FIFO-B (41_fifo R274). -/
def pushB (f : FifoB) (v : Spectrum) : Bool × FifoB :=
  if Config.capacity ≤ levelB f then (false, f)
  else (true, { f with slot := f.slot.set (slotIx f.wr) v, wr := f.wr + 1 })

/-- PULL on FIFO-A: none when empty as the consumer sees it (41_fifo R275). -/
def pullA (f : FifoA) : Option (List F32 × FifoA) :=
  if levelR f = 0 then none else some (f.slot[slotIx f.rd], { f with rd := f.rd + 1 })

/-- PULL on FIFO-B (41_fifo R275). -/
def pullB (f : FifoB) : Option (Spectrum × FifoB) :=
  if levelB f = 0 then none else some (f.slot[slotIx f.rd], { f with rd := f.rd + 1 })

/-- FLUSH of FIFO-A: pointers and views; slot contents stay (41_fifo R276). -/
def flushA (f : FifoA) : FifoA := { f with wr := 0#6, rd := 0#6, wsync := 0#6, rsync := 0#6 }

/-- FLUSH of FIFO-B (41_fifo R276). -/
def flushB (f : FifoB) : FifoB := { f with wr := 0#6, rd := 0#6 }

/-- `n` pulls in a row; the snapshot of the last one (41_fifo R281 `repeat n times`). -/
def pullMany : Nat → FifoB → Option Spectrum → Option Spectrum × FifoB
  | 0, f, last => (last, f)
  | n + 1, f, last =>
    match pullB f with
    | none => (last, f)
    | some (v, f') => pullMany n f' (some v)

/-! ## Synchroniser steps -/

/-- SYNC_W2R on a FIFO-A. Where it is not enabled the view already has this value (41_fifo R277). -/
def syncW2RFifo (f : FifoA) : FifoA := { f with wsync := gray f.wr }

/-- SYNC_R2W on a FIFO-A (41_fifo R278). -/
def syncR2WFifo (f : FifoA) : FifoA := { f with rsync := gray f.rd }

/-- SYNC_W2R[c] (41_fifo R277). -/
def execSyncW2R (c : Ch) (s : State) : Outcome :=
  .next (setCh s c { getCh s c with fa := syncW2RFifo (getCh s c).fa })

/-- SYNC_R2W[c] (41_fifo R278). -/
def execSyncR2W (c : Ch) (s : State) : Outcome :=
  .next (setCh s c { getCh s c with fa := syncR2WFifo (getCh s c).fa })

/-! ## Pull commands -/

/-- A frame copied into the output buffer (41_fifo R280): the words beyond it keep their contents (of a frame
whose length tag and data differ, which no run reaches, the first `len` words: log 18). -/
def loadOutBuf (o : OutBuf) (v : Spectrum) : OutBuf :=
  ⟨true, v.len, memStoreSeq o.data (v.data.take v.len.toNat)⟩

/-- PULL_FRAME (41_fifo R280). -/
def doPullFrame (c : Ch) (s : State) : State :=
  match pullB (getCh s c).fb with
  | none => finishCmd 2#2 0x05#8 0#8 s
  | some (v, fb) =>
    finishCmd 1#2 0x05#8 1#8
      (setCh s c { getCh s c with fb := fb, ob := loadOutBuf (getCh s c).ob v })

/-- PULL_LATEST (41_fifo R281). -/
def doPullLatest (c : Ch) (s : State) : State :=
  let n := levelB (getCh s c).fb
  match pullMany n (getCh s c).fb none with
  | (none, _) => finishCmd 2#2 0x06#8 0#8 s
  | (some v, fb) =>
    finishCmd 1#2 0x06#8 (BitVec.ofNat 8 n)
      (setCh s c { getCh s c with fb := fb, ob := loadOutBuf (getCh s c).ob v })

/-- The command PULL_FRAME (41_fifo R280). -/
def execPullFrame (c : Ch) (s : State) : Outcome := .next (doPullFrame c s)

/-- The command PULL_LATEST (41_fifo R281). -/
def execPullLatest (c : Ch) (s : State) : Outcome := .next (doPullLatest c s)

/-! ## Read views -/

/-- FIFOA_LEVEL (41_fifo R282). -/
def valFifoaLevel (c : Ch) (s : State) : Word := BitVec.ofNat 32 (levelR (getCh s c).fa)

/-- FIFOB_LEVEL (41_fifo R282). -/
def valFifobLevel (c : Ch) (s : State) : Word := BitVec.ofNat 32 (levelB (getCh s c).fb)

/-- FIFOA_PTR (41_fifo R283). -/
def valFifoaPtr (c : Ch) (s : State) : Word :=
  ptrWord (getCh s c).fa.wsync (gray (getCh s c).fa.rd)

/-- FIFOB_PTR (41_fifo R283). -/
def valFifobPtr (c : Ch) (s : State) : Word :=
  ptrWord (gray (getCh s c).fb.wr) (gray (getCh s c).fb.rd)

/-- OUTBUF_INFO (41_fifo R284). -/
def valOutbufInfo (c : Ch) (s : State) : Word := outbufInfoWord (getCh s c).ob

/-- OUTBUF word `j` (41_fifo R285). -/
def valOutbuf (c : Ch) (j : BitVec 12) (s : State) : Word :=
  if (getCh s c).ob.valid ∧ j.toNat < (getCh s c).ob.len.toNat then
    memRead (getCh s c).ob.data j.toNat
  else 0#32

/-- Read of FIFOA_LEVEL (41_fifo R282). -/
def execRdFifoaLevel (c : Ch) (s : State) : Outcome := .next (respond (valFifoaLevel c s) s)

/-- Read of FIFOB_LEVEL (41_fifo R282). -/
def execRdFifobLevel (c : Ch) (s : State) : Outcome := .next (respond (valFifobLevel c s) s)

/-- Read of FIFOA_PTR (41_fifo R283). -/
def execRdFifoaPtr (c : Ch) (s : State) : Outcome := .next (respond (valFifoaPtr c s) s)

/-- Read of FIFOB_PTR (41_fifo R283). -/
def execRdFifobPtr (c : Ch) (s : State) : Outcome := .next (respond (valFifobPtr c s) s)

/-- Read of OUTBUF_INFO (41_fifo R284). -/
def execRdOutbufInfo (c : Ch) (s : State) : Outcome := .next (respond (valOutbufInfo c s) s)

/-- Read of OUTBUF of channel 0 (41_fifo R285). -/
def execRdOutbuf0 (j : BitVec 12) (s : State) : Outcome := .next (respond (valOutbuf .left j s) s)

/-- Read of OUTBUF of channel 1 (41_fifo R285). -/
def execRdOutbuf1 (j : BitVec 12) (s : State) : Outcome := .next (respond (valOutbuf .right j s) s)

/-- Write of FIFOA_LEVEL, read-only (44_control R405). -/
def execWrFifoaLevel (c : Ch) (st : Strobes) (v : Word) (s : State) : Outcome :=
  .next (refuseReadOnly (.fifoaLevel c) st v s)

/-- Write of FIFOB_LEVEL, read-only (44_control R405). -/
def execWrFifobLevel (c : Ch) (st : Strobes) (v : Word) (s : State) : Outcome :=
  .next (refuseReadOnly (.fifobLevel c) st v s)

/-- Write of FIFOA_PTR, read-only (44_control R405). -/
def execWrFifoaPtr (c : Ch) (st : Strobes) (v : Word) (s : State) : Outcome :=
  .next (refuseReadOnly (.fifoaPtr c) st v s)

/-- Write of FIFOB_PTR, read-only (44_control R405). -/
def execWrFifobPtr (c : Ch) (st : Strobes) (v : Word) (s : State) : Outcome :=
  .next (refuseReadOnly (.fifobPtr c) st v s)

/-- Write of OUTBUF_INFO, read-only (44_control R405). -/
def execWrOutbufInfo (c : Ch) (st : Strobes) (v : Word) (s : State) : Outcome :=
  .next (refuseReadOnly (.outbufInfo c) st v s)

/-- Write of OUTBUF of channel 0, read-only (44_control R405). -/
def execWrOutbuf0 (j : BitVec 12) (st : Strobes) (v : Word) (s : State) : Outcome :=
  .next (refuseReadOnly (.outbuf .left j) st v s)

/-- Write of OUTBUF of channel 1, read-only (44_control R405). -/
def execWrOutbuf1 (j : BitVec 12) (st : Strobes) (v : Word) (s : State) : Outcome :=
  .next (refuseReadOnly (.outbuf .right j) st v s)

end Sys2Proof.Machine
end

