-- ==== Sys2Proof/Machine/Collector.lean ====
section
/-!
DEFINITION. The per-channel sample collector (42_collector).
-/

namespace Sys2Proof.Machine

/-- INGEST of a sample into a channel whose target length is `len` (42_collector R321): the accumulator
restarts from empty whether the push succeeded or was dropped. -/
def ingestChan (len : Nat) (v : F32) (k : Chan) : Chan :=
  let acc := memWrite k.acc k.acnt v
  if k.acnt + 1 = len then
    { k with acc := acc, fa := (pushA k.fa (memPrefix acc len)).2, acnt := 0 }
  else { k with acc := acc, acnt := k.acnt + 1 }

/-- INGEST alone; in the block it is a part of FRAME, so no agent's turn runs it (42_collector R321,
30_encoding R152; log 11). -/
def execIngest (c : Ch) (v : F32) (s : State) : Outcome :=
  .next (setCh s c (ingestChan s.llive.toNat v (getCh s c)))

/-- WRITE_ACC_LEN (42_collector R322). -/
def writeAccLen (v : Word) (s : State) : State :=
  if accLenLegal v then ackWrite { s with accLen := v.extractLsb' 0 14 }
  else raise (.wr 0xF#4 v) .badValue (regAddr .accLen) s

/-- READ_ACC_LEN (42_collector R323). -/
def valAccLen (s : State) : Word := s.accLen.zeroExtend 32

/-- READ_ACC_LEN_LIVE (42_collector R323). -/
def valAccLenLive (s : State) : Word := s.llive.zeroExtend 32

/-- Read of ACC_LEN (42_collector R323). -/
def execRdAccLen (s : State) : Outcome := .next (respond (valAccLen s) s)

/-- Write of ACC_LEN (42_collector R322). -/
def execWrAccLen (st : Strobes) (v : Word) (s : State) : Outcome :=
  .next (strobed (regAddr .accLen) st v (writeAccLen v) s)

/-- Read of ACC_LEN_LIVE (42_collector R323). -/
def execRdAccLenLive (s : State) : Outcome := .next (respond (valAccLenLive s) s)

/-- Write of ACC_LEN_LIVE, read-only (44_control R405). -/
def execWrAccLenLive (st : Strobes) (v : Word) (s : State) : Outcome :=
  .next (refuseReadOnly .accLenLive st v s)

end Sys2Proof.Machine
end

