-- ==== Sys2Proof/Machine/Filter.lean ====
section
/-!
DEFINITION. The filter chain, the stream operations and coefficient update (40_filter_chain).
-/

namespace Sys2Proof.Machine

/-! ## Arithmetic -/

/-- The section step BQ, transposed direct form II, each operation rounded (40_filter_chain R200). -/
def bq (t : Taps) (d : Delay) (x : F32) : F32 × Delay :=
  let y := fadd (fmul t.b0 x) d.s1
  let s1 := fadd (fsub (fmul t.b1 x) (fmul t.a1 y)) d.s2
  let s2 := fsub (fmul t.b2 x) (fmul t.a2 y)
  (y, ⟨s1, s2⟩)

/-- `active(s)` of a live configuration (10_state R68). -/
def active (cfg : ChainCfg) (s : Sec) : Bool :=
  if s.val < 4 then !cfg.lcByp && decide (s.val ≤ cfg.lcSlope.toNat)
  else if s.val = 4 then !cfg.pkByp
  else !cfg.hcByp && decide (s.val - 5 ≤ cfg.hcSlope.toNat)

/-- One section of a chain: BQ when active, else the identity with the delay state untouched
(40_filter_chain R201). -/
def section1 (f : CoefFile) (s : Sec) (p : F32 × Vector Delay 9) : F32 × Vector Delay 9 :=
  if active f.cfg s then
    ((bq f.coef[s] p.2[s] p.1).1, p.2.set s (bq f.coef[s] p.2[s] p.1).2)
  else p

/-- The sections in signal order (40_filter_chain R202). -/
def sections : List Sec := [0, 1, 2, 3, 4, 5, 6, 7, 8]

/-- A run of sections applied in order. -/
def chainFrom (f : CoefFile) : List Sec → F32 × Vector Delay 9 → F32 × Vector Delay 9
  | [], p => p
  | s :: rest, p => chainFrom f rest (section1 f s p)

/-- CHAIN: sections 0 to 8 in index order (40_filter_chain R202). -/
def chain (f : CoefFile) (st : Vector Delay 9) (x : F32) : F32 × Vector Delay 9 :=
  chainFrom f sections (x, st)

/-! ## Coefficient install -/

/-- The install of a commit: the live set takes the whole shadow (40_filter_chain R206). -/
def install (s : State) : State := { s with lv := s.sh, pendA := false }

/-- APPLY where it is enabled (40_filter_chain R206). -/
def applyStep (s : State) : State := if s.pendA ∧ s.atb then install s else s

/-- The internal step APPLY; not enabled, it changes nothing (40_filter_chain R206; log 12). -/
def execApply (s : State) : Outcome := .next (applyStep s)

/-- The internal step SYNC_ACK; not enabled, it changes nothing (40_filter_chain R207; log 12). -/
def execSyncAck (s : State) : Outcome :=
  .next (if s.pendC = true ∧ s.pendA = false then { s with pendC := false } else s)

/-! ## Stream operations -/

/-- One channel's part of a frame: the chain, then INGEST of the tapped sample (40_filter_chain R203). -/
def frameChan (f : CoefFile) (tapPre : Bool) (len : Nat) (x : F32) (k : Chan) : F32 × Chan :=
  let r := chain f k.st x
  (r.1, ingestChan len (if tapPre then x else r.1) { k with st := r.2 })

/-- FRAME where the input port is ready (40_filter_chain R203): a commit waiting at this block boundary
lands first. -/
def acceptFrame (last : Bool) (d1 d0 : F32) (s0 : State) : State :=
  let s := applyStep s0
  let l := frameChan s.lv s.ctrl.tapPre s.llive.toNat d0 s.ch.left
  let r := frameChan s.lv s.ctrl.tapPre s.llive.toNat d1 s.ch.right
  { s with ch := ⟨l.2, r.2⟩, out := ⟨true, l.1, r.1, last⟩, atb := last }

/-- FRAME: an offer made while `s_ready = 0` waits (40_filter_chain R203). -/
def execFrame (last : Bool) (d1 d0 : F32) (s : State) : Outcome :=
  .next (if sReady s then acceptFrame last d1 d0 s else s)

/-- TAKE: the output frame is delivered to AUDIO_SINK; with nothing to take, AUDIO_SINK waits
(40_filter_chain R204; logs 4 and 12). -/
def execTake (s : State) : Outcome :=
  .next (if s.out.full then
    { s with taken := s.taken ++ [outFrame s.out], out := { s.out with full := false } } else s)

/-! ## Commands -/

/-- COMMIT (40_filter_chain R205). -/
def doCommit (s : State) : State :=
  finishCmd 1#2 0x01#8 0#8 (if s.pendC then s else { s with pendC := true, pendA := true })

/-- Cleared delay state of a channel (40_filter_chain R208). -/
def clearDelay (k : Chan) : Chan := { k with st := Vector.replicate 9 Delay.zero }

/-- CLEAR_STATE (40_filter_chain R208). -/
def doClearState (s : State) : State := finishCmd 1#2 0x03#8 0#8 (mapCh clearDelay s)

/-- The command COMMIT (40_filter_chain R205). -/
def execCommit (s : State) : Outcome := .next (doCommit s)

/-- The command CLEAR_STATE (40_filter_chain R208). -/
def execClearState (s : State) : Outcome := .next (doClearState s)

/-! ## Shadow and live registers -/

/-- The write rule of the shadow: locked while a commit is pending (40_filter_chain R209, R210). -/
def writeShadow (a : Addr) (v : Word) (sh : CoefFile) (s : State) : State :=
  if s.pendC then raise (.wr 0xF#4 v) .shadowLocked a s else ackWrite { s with sh := sh }

/-- WRITE_COEF (40_filter_chain R209). -/
def writeCoef (i : Sec) (k : Tap) (v : Word) (s : State) : State :=
  writeShadow (regAddr (.coef i k)) v
    { s.sh with coef := s.sh.coef.set i (tapSet s.sh.coef[i] k v) } s

/-- WRITE_CHAIN_CFG (40_filter_chain R210). -/
def writeChainCfg (v : Word) (s : State) : State :=
  writeShadow (regAddr .chainCfg) v { s.sh with cfg := cfgOfWord v } s

/-- READ_CHAIN_CFG (40_filter_chain R212). -/
def valChainCfg (s : State) : Word := cfgWord s.sh.cfg

/-- READ_COEF (40_filter_chain R212). -/
def valCoef (i : Sec) (k : Tap) (s : State) : Word := tapGet s.sh.coef[i] k

/-- READ_CHAIN_LIVE (40_filter_chain R211). -/
def readChainLive (s : State) : State := respondLive (cfgWord s.lv.cfg) s

/-- READ_COEF_LIVE (40_filter_chain R211). -/
def readCoefLive (i : Sec) (k : Tap) (s : State) : State := respondLive (tapGet s.lv.coef[i] k) s

/-- Read of CHAIN_CFG (40_filter_chain R212). -/
def execRdChainCfg (s : State) : Outcome := .next (respond (valChainCfg s) s)

/-- Write of CHAIN_CFG (40_filter_chain R210). -/
def execWrChainCfg (st : Strobes) (v : Word) (s : State) : Outcome :=
  .next (strobed (regAddr .chainCfg) st v (writeChainCfg v) s)

/-- Read of CHAIN_LIVE (40_filter_chain R211). -/
def execRdChainLive (s : State) : Outcome := .next (readChainLive s)

/-- Write of CHAIN_LIVE, read-only (44_control R405). -/
def execWrChainLive (st : Strobes) (v : Word) (s : State) : Outcome :=
  .next (refuseReadOnly .chainLive st v s)

/-- Read of COEF, sections 0 to 7 (40_filter_chain R212). -/
def execRdCoefS07 (i : BitVec 3) (k : Tap) (s : State) : Outcome :=
  .next (respond (valCoef (secOf07 i) k s) s)

/-- Read of COEF, section 8 (40_filter_chain R212). -/
def execRdCoefS8 (k : Tap) (s : State) : Outcome := .next (respond (valCoef 8 k s) s)

/-- Write of COEF, sections 0 to 7 (40_filter_chain R209). -/
def execWrCoefS07 (i : BitVec 3) (k : Tap) (st : Strobes) (v : Word) (s : State) : Outcome :=
  .next (strobed (regAddr (.coef (secOf07 i) k)) st v (writeCoef (secOf07 i) k v) s)

/-- Write of COEF, section 8 (40_filter_chain R209). -/
def execWrCoefS8 (k : Tap) (st : Strobes) (v : Word) (s : State) : Outcome :=
  .next (strobed (regAddr (.coef 8 k)) st v (writeCoef 8 k v) s)

/-- Read of COEF_LIVE, sections 0 to 7 (40_filter_chain R211). -/
def execRdCoefLiveS07 (i : BitVec 3) (k : Tap) (s : State) : Outcome :=
  .next (readCoefLive (secOf07 i) k s)

/-- Read of COEF_LIVE, section 8 (40_filter_chain R211). -/
def execRdCoefLiveS8 (k : Tap) (s : State) : Outcome := .next (readCoefLive 8 k s)

/-- Write of COEF_LIVE, sections 0 to 7, read-only (44_control R405). -/
def execWrCoefLiveS07 (i : BitVec 3) (k : Tap) (st : Strobes) (v : Word) (s : State) : Outcome :=
  .next (refuseReadOnly (.coefLive (secOf07 i) k) st v s)

/-- Write of COEF_LIVE, section 8, read-only (44_control R405). -/
def execWrCoefLiveS8 (k : Tap) (st : Strobes) (v : Word) (s : State) : Outcome :=
  .next (refuseReadOnly (.coefLive 8 k) st v s)

end Sys2Proof.Machine
end

