-- ==== Sys2Proof/Machine/Params.lean ====
section
/-!
DEFINITION. The parameters WIN_F, FFTMAG_F and DB20 with their tolerances and the properties the spec requires
of them (43_spectrum R341 to R343, 00_scope R5).

The transform is any the spec allows. The window and the decibel function are the raw parameters of
`Sys2Proof.Config` wherever these have the required properties, and take values that have them elsewhere. So
the properties hold of the model whatever the raw parameters are, and every parameter the spec allows is one
of the model's (logs 5 and 6).
-/

namespace Sys2Proof.Machine

/-- `WIN_F[i]`: every entry is finite (43_spectrum R341). -/
def win (size i : Nat) : F32 :=
  if f32IsFinite (Config.winRaw size i) then Config.winRaw size i else f32Zero

/-- One transform the spec allows: with FFT_TOL = 1, all bins +0.0. It only shows that there is one. -/
def zeroTransform : Config.Transform where
  tol := 1
  mag := fun _ _ _ => f32Zero
  zero := fun _ _ _ _ _ _ _ => rfl
  sign := fun _ _ _ _ _ _ => .inr (by decide)
  noNaN := fun _ _ _ _ _ _ _ => by decide
  accurate := by
    intro size _ w hw _ _ k _
    have hz : ((f32Rat f32Zero : ℚ) : ℝ) = 0 := by simp [f32Rat, show f32Units f32Zero = 0 from by decide]
    rw [hz, zero_sub, abs_neg, abs_norm, Rat.cast_one, one_mul]
    refine (norm_sum_le _ _).trans (le_of_eq ?_)
    have hsum : (w.map fun x => |((f32Rat x : ℚ) : ℝ)|).sum =
        ∑ n ∈ Finset.range size, |((f32Rat (w.getD n f32Zero) : ℚ) : ℝ)| := by
      rw [← hw, Finset.sum_range, ← List.sum_ofFn]
      congr 1
      apply List.ext_getElem <;> simp
    rw [hsum]
    refine Finset.sum_congr rfl fun n _ => ?_
    have he : (-2 * Real.pi * Complex.I * k * n / size : ℂ) =
        ((-2 * Real.pi * k * n / size : ℝ) : ℂ) * Complex.I := by push_cast; ring
    rw [norm_mul, he, Complex.norm_exp_ofReal_mul_I, mul_one, Complex.norm_real, Real.norm_eq_abs]

/-- The block's transform and its tolerance (43_spectrum R342): any the spec allows. -/
def transform : Config.Transform := @Config.transform ⟨zeroTransform⟩

/-- FFT_TOL (00_scope R5). -/
def fftTol : ℚ := transform.tol

/-- Bin `k` of `FFTMAG_F` (43_spectrum R342). -/
def fftMag (size : Nat) (w : List F32) (k : Nat) : F32 := transform.mag size w k

/-- `|v - 20 log10 m| <= tol` for `m = u` units and `v = x` units of 2^-149 (43_spectrum R343, DB-P3), as the
two integer inequalities `10^((v - tol)/20) <= m` and `m <= 10^((v + tol)/20)` with their denominators
cleared. -/
def dbWithin (tol : ℚ) (u : Nat) (x : Int) : Bool :=
  let b := 20 * tol.den * 2 ^ 149
  let lo := tol.den * x - tol.num * 2 ^ 149
  let hi := tol.den * x + tol.num * 2 ^ 149
  decide (10 ^ lo.toNat * 2 ^ (149 * b) ≤ u ^ b * 10 ^ (-lo).toNat) &&
    decide (u ^ b * 10 ^ (-hi).toNat ≤ 10 ^ hi.toNat * 2 ^ (149 * b))

/-- `v` may be `DB20(m)` for a finite positive `m`: finite, within the tolerance, and not across zero from
`DB20(1.0) = +0.0` (DB-P1 to DB-P3). -/
def dbFits (tol : ℚ) (m v : F32) : Bool :=
  f32IsFinite v && dbWithin tol (f32Mag m) (f32Units v) &&
    (!fle m f32One || fle v f32Zero) && (!fle f32One m || fle f32Zero v)

/-- The first pattern that fits. -/
def dbFirst (tol : ℚ) (m : F32) : Option F32 :=
  ((List.range (2 ^ 32)).map (BitVec.ofNat 32)).find? (dbFits tol m)

/-- A tolerance an implementation can have: at most 0.01, and some binary32 value fits each finite positive
argument. -/
def dbTolAllowed (tol : ℚ) : Bool :=
  decide (tol ≤ 1 / 100) &&
    (List.range 0x7F7FFFFF).all fun n => (dbFirst tol (BitVec.ofNat 32 (n + 1))).isSome

/-- DB_TOL (00_scope R5): the parameter where an implementation can have it, else its largest value. -/
def dbTol : ℚ := if dbTolAllowed Config.dbTolRaw then Config.dbTolRaw else 1 / 100

/-- The raw decibel value of a finite positive `m` where it fits, else the first that does. -/
def dbCandidate (m : F32) : F32 :=
  if dbFits dbTol m (Config.db20Raw m) then Config.db20Raw m else (dbFirst dbTol m).getD f32Zero

/-- The largest candidate over the positive patterns 1 to `n + 1`, the later of equal ones, so that the
result rises with the pattern (DB-P2) and is the raw function where that already rises. -/
def dbMax : Nat → F32
  | 0 => dbCandidate 1#32
  | n + 1 =>
    let v := dbCandidate (BitVec.ofNat 32 (n + 2))
    if flt v (dbMax n) then dbMax n else v

/-- `DB20` (43_spectrum R343): DB-P1 `DB20(1.0) = +0.0`, DB-P2 rising, DB-P3 finite and within DB_TOL,
DB-P4 `DB20(+infinity) = +infinity`. It is never applied to zero, negative or NaN arguments (R344). -/
def db20 (m : F32) : F32 :=
  if m = f32One then f32Zero
  else if m = f32Inf then f32Inf
  else if f32IsFinite m && !f32Sign m && !f32IsZero m then dbMax (m.toNat - 1)
  else Config.db20Raw m

end Sys2Proof.Machine
end

