-- ==== Sys2Proof/Machine/Spectrum.lean ====
section
/-!
DEFINITION. The FFT magnitude spectrum engine (43_spectrum).
-/

namespace Sys2Proof.Machine

/-! ## Functions -/

/-- `F = 2^FFT_ORDER` (43_spectrum R340). -/
def fftSize (order : BitVec 4) : Nat := 2 ^ order.toNat

/-- `last_n(q)` (00_scope R10). -/
def lastN {α : Type} (n : Nat) (q : List α) : List α := q.drop (q.length - n)

/-- The windowed copy of a history (43_spectrum R345). -/
def windowed (size : Nat) (h : List F32) : List F32 :=
  List.zipWith fmul h ((List.range size).map (win size))

/-- DBCONV, the floor clamp (43_spectrum R344). -/
def dbconv (m f : F32) : F32 :=
  if f32IsNaN m || fle m f32Zero then f
  else if f32IsNaN (db20 m) || flt (db20 m) f then f
  else db20 m

/-- SPECTRUM, the frame computed from a history (43_spectrum R345). -/
def spectrum (h : List F32) (size : Nat) (f : F32) : Spectrum :=
  let w := windowed size h
  ⟨BitVec.ofNat 13 (size / 2),
   (List.range (size / 2)).map fun k => dbconv (fdiv (fftMag size w k) (f32OfNat (size / 2))) f⟩

/-! ## The engine step -/

/-- The history and its count after a pulled block (43_spectrum R346). -/
def extendHistory (size : Nat) (b : List F32) (k : Chan) : Chan :=
  { k with
    hist := lastN size (k.hist ++ b)
    hcnt := BitVec.ofNat 14 (min size (k.hcnt.toNat + b.length)) }

/-- FFT_STEP on a channel: pull a block, extend the history, and once it is full push one frame
(43_spectrum R346). With FIFO-A empty as the engine sees it, nothing happens. -/
def fftChan (size : Nat) (f : F32) (k : Chan) : Chan :=
  match pullA k.fa with
  | none => k
  | some (b, fa) =>
    let k' := extendHistory size b { k with fa := fa }
    if k'.hcnt.toNat = size then { k' with fb := (pushB k'.fb (spectrum k'.hist size f)).2 } else k'

/-- FFT_STEP[c]: enabled only with FFT_EN = 1 (43_spectrum R346; log 12). -/
def execFftStep (c : Ch) (s : State) : Outcome :=
  .next (if s.ctrl.fftEn then setCh s c (fftChan (fftSize s.fftOrder) s.floor (getCh s c)) else s)

/-! ## Commands and registers -/

/-- A cleared history of `size` zeros (43_spectrum R347, 44_control R400). -/
def clearHistory (size : Nat) (k : Chan) : Chan :=
  { k with hist := List.replicate size 0#32, hcnt := 0#14 }

/-- The effect of SET_FFT_ORDER on a channel (43_spectrum R347). -/
def reorderChan (size : Nat) (k : Chan) : Chan :=
  { clearHistory size k with fb := flushB k.fb }

/-- SET_FFT_ORDER (43_spectrum R347). -/
def doSetFftOrder (ord : BitVec 4) (s : State) : State :=
  if s.ctrl.fftEn then refuseCmd .precondition (cmdWord 0x04#8 (0#20 ++ ord)) s
  else if orderLegal ord then
    finishCmd 1#2 0x04#8 0#8 (mapCh (reorderChan (fftSize ord)) { s with fftOrder := ord })
  else refuseCmd .badValue (cmdWord 0x04#8 (0#20 ++ ord)) s

/-- The command SET_FFT_ORDER (43_spectrum R347). -/
def execSetFftOrder (ord : BitVec 4) (s : State) : Outcome := .next (doSetFftOrder ord s)

/-- READ_FFT_CFG (43_spectrum R348). -/
def valFftCfg (s : State) : Word := s.fftOrder.zeroExtend 32

/-- WRITE_SILENCE_FLOOR (43_spectrum R349). -/
def writeSilenceFloor (v : Word) (s : State) : State :=
  if f32IsFinite v then ackWrite { s with floor := v }
  else raise (.wr 0xF#4 v) .badValue (regAddr .silenceFloor) s

/-- READ_SILENCE_FLOOR (43_spectrum R350). -/
def valSilenceFloor (s : State) : Word := s.floor

/-- READ_HIST_CNT (43_spectrum R351). -/
def valHistCnt (c : Ch) (s : State) : Word := (getCh s c).hcnt.zeroExtend 32

/-- Read of FFT_CFG (43_spectrum R348). -/
def execRdFftCfg (s : State) : Outcome := .next (respond (valFftCfg s) s)

/-- Write of FFT_CFG, read-only (44_control R405). -/
def execWrFftCfg (st : Strobes) (v : Word) (s : State) : Outcome :=
  .next (refuseReadOnly .fftCfg st v s)

/-- Read of SILENCE_FLOOR (43_spectrum R350). -/
def execRdSilenceFloor (s : State) : Outcome := .next (respond (valSilenceFloor s) s)

/-- Write of SILENCE_FLOOR (43_spectrum R349). -/
def execWrSilenceFloor (st : Strobes) (v : Word) (s : State) : Outcome :=
  .next (strobed (regAddr .silenceFloor) st v (writeSilenceFloor v) s)

/-- Read of HIST_CNT (43_spectrum R351). -/
def execRdHistCnt (c : Ch) (s : State) : Outcome := .next (respond (valHistCnt c s) s)

/-- Write of HIST_CNT, read-only (44_control R405). -/
def execWrHistCnt (c : Ch) (st : Strobes) (v : Word) (s : State) : Outcome :=
  .next (refuseReadOnly (.histCnt c) st v s)

end Sys2Proof.Machine
end

