-- ==== Sys2Proof/Machine/Control.lean ====
section
/-!
DEFINITION. Identification, control and status registers and the commands NOP, PREPARE and the illegal
words (44_control, 30_encoding R146).
-/

namespace Sys2Proof.Machine

/-! ## Commands -/

/-- NOP (44_control R401). -/
def doNop (s : State) : State := finishCmd 1#2 0x00#8 0#8 s

/-- The effect of PREPARE on a channel (44_control R400): delay state, collector, FIFOs, history and the
validity of OUTBUF. -/
def prepareChan (size : Nat) (k : Chan) : Chan :=
  { clearHistory size (clearDelay k) with
    acnt := 0
    fa := flushA k.fa
    fb := flushB k.fb
    ob := { k.ob with valid := false, len := 0#13 } }

/-- PREPARE where it is allowed (44_control R400): a waiting commit lands, whatever the block boundary. -/
def prepareState (s0 : State) : State :=
  let s := if s0.pendA then install s0 else s0
  mapCh (prepareChan (fftSize s.fftOrder))
    { s with pendA := false, pendC := false, llive := s.accLen, atb := true }

/-- PREPARE (44_control R400). -/
def doPrepare (s : State) : State :=
  if s.ctrl.run ∨ s.ctrl.fftEn then refuseCmd .precondition (cmdWord 0x02#8 0#24) s
  else finishCmd 1#2 0x02#8 0#8 (prepareState s)

/-- The command NOP (44_control R401). -/
def execNop (s : State) : Outcome := .next (doNop s)

/-- The command PREPARE (44_control R400). -/
def execPrepare (s : State) : Outcome := .next (doPrepare s)

/-- An illegal command word (30_encoding R146). -/
def execCmdReserved (w : Word) (s : State) : Outcome := .next (refuseCmd .illegalCmd w s)

/-- A command word written to CMD, decoded and executed (44_control R402, 30_encoding R148). -/
def runCommand (w : Word) (s : State) : State :=
  match decodeCmd w with
  | .nop => doNop s
  | .commit => doCommit s
  | .prepare => doPrepare s
  | .clearState => doClearState s
  | .setFftOrder ord => doSetFftOrder ord s
  | .pullFrame c => doPullFrame c s
  | .pullLatest c => doPullLatest c s
  | .reserved w => refuseCmd .illegalCmd w s

/-! ## Registers -/

/-- Read of ID (44_control R392). -/
def execRdId (s : State) : Outcome := .next (respond Config.idWord s)

/-- Write of ID, read-only (44_control R405). -/
def execWrId (st : Strobes) (v : Word) (s : State) : Outcome := .next (refuseReadOnly .id st v s)

/-- Read of PARAMS (44_control R393). -/
def execRdParams (s : State) : Outcome := .next (respond paramsWord s)

/-- Write of PARAMS, read-only (44_control R405). -/
def execWrParams (st : Strobes) (v : Word) (s : State) : Outcome :=
  .next (refuseReadOnly .params st v s)

/-- READ_CTRL (44_control R395). -/
def valCtrl (s : State) : Word := ctrlWord s.ctrl

/-- WRITE_CTRL (44_control R394). -/
def writeCtrl (v : Word) (s : State) : State := ackWrite { s with ctrl := ctrlOfWord v }

/-- Read of CTRL (44_control R395). -/
def execRdCtrl (s : State) : Outcome := .next (respond (valCtrl s) s)

/-- Write of CTRL (44_control R394). -/
def execWrCtrl (st : Strobes) (v : Word) (s : State) : Outcome :=
  .next (strobed (regAddr .ctrl) st v (writeCtrl v) s)

/-- READ_STATUS (44_control R397). -/
def valStatus (s : State) : Word := statusWord s

/-- WRITE_STATUS (44_control R396). -/
def writeStatus (v : Word) (s : State) : State := ackWrite (clearSticky v s)

/-- Read of STATUS (44_control R397). -/
def execRdStatus (s : State) : Outcome := .next (respond (valStatus s) s)

/-- Write of STATUS (44_control R396). -/
def execWrStatus (st : Strobes) (v : Word) (s : State) : Outcome :=
  .next (strobed (regAddr .status) st v (writeStatus v) s)

/-- Read of CMD (44_control R403). -/
def execRdCmd (s : State) : Outcome := .next (respond 0#32 s)

/-- Write of CMD (44_control R402). -/
def execWrCmd (st : Strobes) (v : Word) (s : State) : Outcome :=
  .next (strobed (regAddr .cmd) st v (runCommand v) s)

/-- READ_CMD_RESULT (44_control R399). -/
def valCmdResult (s : State) : Word := cmdResultWord s.res

/-- Read of CMD_RESULT (44_control R399). -/
def execRdCmdResult (s : State) : Outcome := .next (respond (valCmdResult s) s)

/-- Write of CMD_RESULT, read-only (44_control R405). -/
def execWrCmdResult (st : Strobes) (v : Word) (s : State) : Outcome :=
  .next (refuseReadOnly .cmdResult st v s)

/-- READ_ERR_INFO (44_control R404). -/
def valErrInfo (s : State) : Word := errInfoWord s.err

/-- Read of ERR_INFO (44_control R404). -/
def execRdErrInfo (s : State) : Outcome := .next (respond (valErrInfo s) s)

/-- Write of ERR_INFO, read-only (44_control R405). -/
def execWrErrInfo (st : Strobes) (v : Word) (s : State) : Outcome :=
  .next (refuseReadOnly .errInfo st v s)

end Sys2Proof.Machine
end

