-- ==== Sys2Proof/Machine/BusAccess.lean ====
section
/-!
DEFINITION. Bus accesses as a whole: the checks in their order of precedence and the dispatch over every
mapped register (44_control R390, R391, R407; 60_exceptions R442).
-/

namespace Sys2Proof.Machine

/-- The read rule of a register (44_control R407). -/
def readReg (r : Reg) (s : State) : State :=
  match r with
  | .id => respond Config.idWord s
  | .params => respond paramsWord s
  | .ctrl => respond (valCtrl s) s
  | .chainCfg => respond (valChainCfg s) s
  | .chainLive => readChainLive s
  | .status => respond (valStatus s) s
  | .cmd => respond 0#32 s
  | .cmdResult => respond (valCmdResult s) s
  | .fftCfg => respond (valFftCfg s) s
  | .accLen => respond (valAccLen s) s
  | .accLenLive => respond (valAccLenLive s) s
  | .silenceFloor => respond (valSilenceFloor s) s
  | .fifoaLevel c => respond (valFifoaLevel c s) s
  | .fifobLevel c => respond (valFifobLevel c s) s
  | .fifoaPtr c => respond (valFifoaPtr c s) s
  | .fifobPtr c => respond (valFifobPtr c s) s
  | .outbufInfo c => respond (valOutbufInfo c s) s
  | .histCnt c => respond (valHistCnt c s) s
  | .errInfo => respond (valErrInfo s) s
  | .coef i k => respond (valCoef i k s) s
  | .coefLive i k => readCoefLive i k s
  | .outbuf c j => respond (valOutbuf c j s) s

/-- The write rule of a register, after the checks; a read-only one raises READ_ONLY
(44_control R405, R407). -/
def writeReg (r : Reg) (v : Word) (s : State) : State :=
  match r with
  | .ctrl => writeCtrl v s
  | .chainCfg => writeChainCfg v s
  | .status => writeStatus v s
  | .cmd => runCommand v s
  | .accLen => writeAccLen v s
  | .silenceFloor => writeSilenceFloor v s
  | .coef i k => writeCoef i k v s
  | .id | .params | .chainLive | .cmdResult | .fftCfg | .accLenLive | .fifoaLevel _ | .fifobLevel _
  | .fifoaPtr _ | .fifobPtr _ | .outbufInfo _ | .histCnt _ | .errInfo | .coefLive _ _ | .outbuf _ _ =>
    raise (.wr 0xF#4 v) .readOnly (regAddr r) s

/-- BUS_READ (44_control R390). -/
def busRead (a : Addr) (s : State) : State :=
  if misaligned a then raise .rd .misaligned a s
  else
    match regAt a with
    | none => raise .rd .unmapped a s
    | some r => readReg r s

/-- BUS_WRITE (44_control R391). -/
def busWrite (a : Addr) (st : Strobes) (v : Word) (s : State) : State :=
  if misaligned a then raise (.wr st v) .misaligned a s
  else if st ≠ 0xF#4 then raise (.wr st v) .partialWrite a s
  else
    match regAt a with
    | none => raise (.wr st v) .unmapped a s
    | some r => writeReg r v s

/-- BUS_READ of any address (44_control R390). -/
def execBusReadChecks (a : Addr) (s : State) : Outcome := .next (busRead a s)

/-- BUS_WRITE of any address (44_control R391). -/
def execBusWriteChecks (a : Addr) (st : Strobes) (v : Word) (s : State) : Outcome :=
  .next (busWrite a st v s)

/-- An access to an aligned address that is not mapped (44_control R406); a partial write is refused as
partial first (60_exceptions R442). -/
def execBusUnmapped (acc : Access) (a : Addr) (s : State) : Outcome :=
  match acc with
  | .rd => .next (raise .rd .unmapped a s)
  | .wr st v => .next (strobed a st v (raise (.wr st v) .unmapped a) s)

end Sys2Proof.Machine
end

