-- ==== Sys2Proof/Machine/Dispatch.lean ====
section
/-!
DEFINITION. The meaning of every instruction, one arm for each constructor of `Instr`.
-/

namespace Sys2Proof.Machine

def exec (i : Instr) (s : State) : Host.Outcome State Fault Refusal :=
  match i with
  | .nop => Sys2Proof.Machine.execNop s
  | .commit => Sys2Proof.Machine.execCommit s
  | .prepare => Sys2Proof.Machine.execPrepare s
  | .clearState => Sys2Proof.Machine.execClearState s
  | .setFftOrder ord => Sys2Proof.Machine.execSetFftOrder ord s
  | .pullFrame c => Sys2Proof.Machine.execPullFrame c s
  | .pullLatest c => Sys2Proof.Machine.execPullLatest c s
  | .cmdReserved w => Sys2Proof.Machine.execCmdReserved w s
  | .busReadChecks a => Sys2Proof.Machine.execBusReadChecks a s
  | .busWriteChecks a st v => Sys2Proof.Machine.execBusWriteChecks a st v s
  | .rdId => Sys2Proof.Machine.execRdId s
  | .wrId st v => Sys2Proof.Machine.execWrId st v s
  | .rdParams => Sys2Proof.Machine.execRdParams s
  | .wrParams st v => Sys2Proof.Machine.execWrParams st v s
  | .rdCtrl => Sys2Proof.Machine.execRdCtrl s
  | .wrCtrl st v => Sys2Proof.Machine.execWrCtrl st v s
  | .rdChainCfg => Sys2Proof.Machine.execRdChainCfg s
  | .wrChainCfg st v => Sys2Proof.Machine.execWrChainCfg st v s
  | .rdChainLive => Sys2Proof.Machine.execRdChainLive s
  | .wrChainLive st v => Sys2Proof.Machine.execWrChainLive st v s
  | .rdStatus => Sys2Proof.Machine.execRdStatus s
  | .wrStatus st v => Sys2Proof.Machine.execWrStatus st v s
  | .rdCmd => Sys2Proof.Machine.execRdCmd s
  | .wrCmd st v => Sys2Proof.Machine.execWrCmd st v s
  | .rdCmdResult => Sys2Proof.Machine.execRdCmdResult s
  | .wrCmdResult st v => Sys2Proof.Machine.execWrCmdResult st v s
  | .rdFftCfg => Sys2Proof.Machine.execRdFftCfg s
  | .wrFftCfg st v => Sys2Proof.Machine.execWrFftCfg st v s
  | .rdAccLen => Sys2Proof.Machine.execRdAccLen s
  | .wrAccLen st v => Sys2Proof.Machine.execWrAccLen st v s
  | .rdAccLenLive => Sys2Proof.Machine.execRdAccLenLive s
  | .wrAccLenLive st v => Sys2Proof.Machine.execWrAccLenLive st v s
  | .rdSilenceFloor => Sys2Proof.Machine.execRdSilenceFloor s
  | .wrSilenceFloor st v => Sys2Proof.Machine.execWrSilenceFloor st v s
  | .rdErrInfo => Sys2Proof.Machine.execRdErrInfo s
  | .wrErrInfo st v => Sys2Proof.Machine.execWrErrInfo st v s
  | .rdFifoaLevel c => Sys2Proof.Machine.execRdFifoaLevel c s
  | .wrFifoaLevel c st v => Sys2Proof.Machine.execWrFifoaLevel c st v s
  | .rdFifobLevel c => Sys2Proof.Machine.execRdFifobLevel c s
  | .wrFifobLevel c st v => Sys2Proof.Machine.execWrFifobLevel c st v s
  | .rdFifoaPtr c => Sys2Proof.Machine.execRdFifoaPtr c s
  | .wrFifoaPtr c st v => Sys2Proof.Machine.execWrFifoaPtr c st v s
  | .rdFifobPtr c => Sys2Proof.Machine.execRdFifobPtr c s
  | .wrFifobPtr c st v => Sys2Proof.Machine.execWrFifobPtr c st v s
  | .rdOutbufInfo c => Sys2Proof.Machine.execRdOutbufInfo c s
  | .wrOutbufInfo c st v => Sys2Proof.Machine.execWrOutbufInfo c st v s
  | .rdHistCnt c => Sys2Proof.Machine.execRdHistCnt c s
  | .wrHistCnt c st v => Sys2Proof.Machine.execWrHistCnt c st v s
  | .rdCoefS07 sec k => Sys2Proof.Machine.execRdCoefS07 sec k s
  | .rdCoefS8 k => Sys2Proof.Machine.execRdCoefS8 k s
  | .wrCoefS07 sec k st v => Sys2Proof.Machine.execWrCoefS07 sec k st v s
  | .wrCoefS8 k st v => Sys2Proof.Machine.execWrCoefS8 k st v s
  | .rdCoefLiveS07 sec k => Sys2Proof.Machine.execRdCoefLiveS07 sec k s
  | .rdCoefLiveS8 k => Sys2Proof.Machine.execRdCoefLiveS8 k s
  | .wrCoefLiveS07 sec k st v => Sys2Proof.Machine.execWrCoefLiveS07 sec k st v s
  | .wrCoefLiveS8 k st v => Sys2Proof.Machine.execWrCoefLiveS8 k st v s
  | .rdOutbuf0 j => Sys2Proof.Machine.execRdOutbuf0 j s
  | .wrOutbuf0 j st v => Sys2Proof.Machine.execWrOutbuf0 j st v s
  | .rdOutbuf1 j => Sys2Proof.Machine.execRdOutbuf1 j s
  | .wrOutbuf1 j st v => Sys2Proof.Machine.execWrOutbuf1 j st v s
  | .busUnmapped acc a => Sys2Proof.Machine.execBusUnmapped acc a s
  | .frame last d1 d0 => Sys2Proof.Machine.execFrame last d1 d0 s
  | .take => Sys2Proof.Machine.execTake s
  | .ingest c v => Sys2Proof.Machine.execIngest c v s
  | .apply => Sys2Proof.Machine.execApply s
  | .syncAck => Sys2Proof.Machine.execSyncAck s
  | .syncW2R c => Sys2Proof.Machine.execSyncW2R c s
  | .syncR2W c => Sys2Proof.Machine.execSyncR2W c s
  | .fftStep c => Sys2Proof.Machine.execFftStep c s

end Sys2Proof.Machine
end

