-- ==== Sys2Proof/WellFormed.lean ====
section
/-!
DEFINITION. Which terms of `Instr` the decoder can produce: the rows that overlap others in the opcode
table stand only for what no other row claims.
-/

namespace Sys2Proof

/-- The bus access that the row BUS_UNMAPPED stands for: aligned, and not in 44_control R407. -/
def Instr.unmappedAddr (a : Addr) : Bool :=
  !Machine.misaligned a && (Machine.regAt a).isNone

/-- A well-formed instruction.
- BUS_READ_CHECKS and BUS_WRITE_CHECKS match every access of the table; as decoded instructions they
  stand for the misaligned ones, which no other row claims (44_control R390, R391; DESIGN CHOICE, log 10).
- BUS_UNMAPPED stands for an aligned address that 44_control R407 does not list (R406).
- CMD_RESERVED stands for an illegal command word (30_encoding R146). -/
def Instr.wf : Instr → Bool
  | .busReadChecks a => Machine.misaligned a
  | .busWriteChecks a _ _ => Machine.misaligned a
  | .busUnmapped _ a => Instr.unmappedAddr a
  | .cmdReserved w => Machine.decodeCmd w == .reserved w
  | .nop | .commit | .prepare | .clearState | .setFftOrder _ | .pullFrame _ | .pullLatest _ => true
  | .rdId | .wrId _ _ | .rdParams | .wrParams _ _ | .rdCtrl | .wrCtrl _ _ => true
  | .rdChainCfg | .wrChainCfg _ _ | .rdChainLive | .wrChainLive _ _ => true
  | .rdStatus | .wrStatus _ _ | .rdCmd | .wrCmd _ _ | .rdCmdResult | .wrCmdResult _ _ => true
  | .rdFftCfg | .wrFftCfg _ _ | .rdAccLen | .wrAccLen _ _ | .rdAccLenLive | .wrAccLenLive _ _ => true
  | .rdSilenceFloor | .wrSilenceFloor _ _ | .rdErrInfo | .wrErrInfo _ _ => true
  | .rdFifoaLevel _ | .wrFifoaLevel _ _ _ | .rdFifobLevel _ | .wrFifobLevel _ _ _ => true
  | .rdFifoaPtr _ | .wrFifoaPtr _ _ _ | .rdFifobPtr _ | .wrFifobPtr _ _ _ => true
  | .rdOutbufInfo _ | .wrOutbufInfo _ _ _ | .rdHistCnt _ | .wrHistCnt _ _ _ => true
  | .rdCoefS07 _ _ | .rdCoefS8 _ | .wrCoefS07 _ _ _ _ | .wrCoefS8 _ _ _ => true
  | .rdCoefLiveS07 _ _ | .rdCoefLiveS8 _ | .wrCoefLiveS07 _ _ _ _ | .wrCoefLiveS8 _ _ _ => true
  | .rdOutbuf0 _ | .wrOutbuf0 _ _ _ | .rdOutbuf1 _ | .wrOutbuf1 _ _ _ => true
  | .frame _ _ _ | .take | .ingest _ _ | .apply | .syncAck | .syncW2R _ | .syncR2W _ | .fftStep _ => true

end Sys2Proof
end

