-- ==== Sys2Proof/Decode.lean ====
section
/-!
DEFINITION. The decoder of the four encoded formats and, after it, the encoder (30_encoding).

Every bus access, command word and frame has a meaning, so the decoder is total and rejects nothing: an
illegal command word decodes to CMD_RESERVED (R146), an unmapped address to BUS_UNMAPPED
(44_control R406), a misaligned one to BUS_READ_CHECKS or BUS_WRITE_CHECKS (R390, R391). What it does
refuse is a width that is none of the formats' (`decodeTableWord`).
-/

namespace Sys2Proof

/-- Decode of a bus access from its fields (44_control R390, R391, R407). -/
def decodeAccess (acc : Access) (a : Addr) : Instr :=
  if Machine.misaligned a then
    match acc with
    | .rd => .busReadChecks a
    | .wr st v => .busWriteChecks a st v
  else
    match Machine.regAt a with
    | none => .busUnmapped acc a
    | some r =>
      match acc with
      | .rd => Machine.readRow r
      | .wr st v => Machine.writeRow st v r

/-- The access a bus word asks for; a read ignores strobes and data (30_encoding R141). -/
def accessOf (w : BitVec 53) : Access :=
  if Machine.busWe w then .wr (Machine.busStrobes w) (Machine.busData w) else .rd

/-- Decode of one frame (30_encoding R142). -/
def decodeFrame (f : FrameBits) : Instr :=
  .frame (f.getLsbD 64) (f.extractLsb' 32 32) (f.extractLsb' 0 32)

/-- The instruction that a transfer on one of the ports carries (30_encoding R140). -/
def decode : Transfer → Instr
  | .bus (.access w) => decodeAccess (accessOf w) (Machine.busAddr w)
  | .bus (.command w) => Machine.cmdRow (Machine.decodeCmd w)
  | .streamIn f => decodeFrame f
  | .streamOut => .take

/-- The encoding of a bus access (30_encoding R141). -/
def encodeAccess (acc : Access) (a : Addr) : Transfer :=
  match acc with
  | .rd => .bus (.access (Machine.readWord a))
  | .wr st v => .bus (.access (Machine.writeWord a st v))

/-- The encoding of a command word (30_encoding R143, R145). -/
def encodeCmd (opc : BitVec 8) (arg : BitVec 24) : Transfer :=
  .bus (.command (Machine.cmdWord opc arg))

/-- The encoding of a read of a register. -/
def encodeRead (r : Reg) : Transfer := encodeAccess .rd (Machine.regAddr r)

/-- The encoding of a write of a register. -/
def encodeWrite (r : Reg) (st : Strobes) (v : Word) : Transfer :=
  encodeAccess (.wr st v) (Machine.regAddr r)

/-- The encoder: the transfer that carries an instruction; `none` for the internal operations, which
have no encoding (30_encoding R152). -/
def encode : Instr → Option Transfer
  | .nop => some (encodeCmd 0x00#8 0#24)
  | .commit => some (encodeCmd 0x01#8 0#24)
  | .prepare => some (encodeCmd 0x02#8 0#24)
  | .clearState => some (encodeCmd 0x03#8 0#24)
  | .setFftOrder ord => some (encodeCmd 0x04#8 (0#20 ++ ord))
  | .pullFrame c => some (encodeCmd 0x05#8 (Machine.chArg c))
  | .pullLatest c => some (encodeCmd 0x06#8 (Machine.chArg c))
  | .cmdReserved w => some (.bus (.command w))
  | .busReadChecks a => some (encodeAccess .rd a)
  | .busWriteChecks a st v => some (encodeAccess (.wr st v) a)
  | .rdId => some (encodeRead .id)
  | .wrId st v => some (encodeWrite .id st v)
  | .rdParams => some (encodeRead .params)
  | .wrParams st v => some (encodeWrite .params st v)
  | .rdCtrl => some (encodeRead .ctrl)
  | .wrCtrl st v => some (encodeWrite .ctrl st v)
  | .rdChainCfg => some (encodeRead .chainCfg)
  | .wrChainCfg st v => some (encodeWrite .chainCfg st v)
  | .rdChainLive => some (encodeRead .chainLive)
  | .wrChainLive st v => some (encodeWrite .chainLive st v)
  | .rdStatus => some (encodeRead .status)
  | .wrStatus st v => some (encodeWrite .status st v)
  | .rdCmd => some (encodeRead .cmd)
  | .wrCmd st v => some (encodeWrite .cmd st v)
  | .rdCmdResult => some (encodeRead .cmdResult)
  | .wrCmdResult st v => some (encodeWrite .cmdResult st v)
  | .rdFftCfg => some (encodeRead .fftCfg)
  | .wrFftCfg st v => some (encodeWrite .fftCfg st v)
  | .rdAccLen => some (encodeRead .accLen)
  | .wrAccLen st v => some (encodeWrite .accLen st v)
  | .rdAccLenLive => some (encodeRead .accLenLive)
  | .wrAccLenLive st v => some (encodeWrite .accLenLive st v)
  | .rdSilenceFloor => some (encodeRead .silenceFloor)
  | .wrSilenceFloor st v => some (encodeWrite .silenceFloor st v)
  | .rdErrInfo => some (encodeRead .errInfo)
  | .wrErrInfo st v => some (encodeWrite .errInfo st v)
  | .rdFifoaLevel c => some (encodeRead (.fifoaLevel c))
  | .wrFifoaLevel c st v => some (encodeWrite (.fifoaLevel c) st v)
  | .rdFifobLevel c => some (encodeRead (.fifobLevel c))
  | .wrFifobLevel c st v => some (encodeWrite (.fifobLevel c) st v)
  | .rdFifoaPtr c => some (encodeRead (.fifoaPtr c))
  | .wrFifoaPtr c st v => some (encodeWrite (.fifoaPtr c) st v)
  | .rdFifobPtr c => some (encodeRead (.fifobPtr c))
  | .wrFifobPtr c st v => some (encodeWrite (.fifobPtr c) st v)
  | .rdOutbufInfo c => some (encodeRead (.outbufInfo c))
  | .wrOutbufInfo c st v => some (encodeWrite (.outbufInfo c) st v)
  | .rdHistCnt c => some (encodeRead (.histCnt c))
  | .wrHistCnt c st v => some (encodeWrite (.histCnt c) st v)
  | .rdCoefS07 s k => some (encodeRead (.coef (Machine.secOf07 s) k))
  | .rdCoefS8 k => some (encodeRead (.coef 8 k))
  | .wrCoefS07 s k st v => some (encodeWrite (.coef (Machine.secOf07 s) k) st v)
  | .wrCoefS8 k st v => some (encodeWrite (.coef 8 k) st v)
  | .rdCoefLiveS07 s k => some (encodeRead (.coefLive (Machine.secOf07 s) k))
  | .rdCoefLiveS8 k => some (encodeRead (.coefLive 8 k))
  | .wrCoefLiveS07 s k st v => some (encodeWrite (.coefLive (Machine.secOf07 s) k) st v)
  | .wrCoefLiveS8 k st v => some (encodeWrite (.coefLive 8 k) st v)
  | .rdOutbuf0 j => some (encodeRead (.outbuf .left j))
  | .wrOutbuf0 j st v => some (encodeWrite (.outbuf .left j) st v)
  | .rdOutbuf1 j => some (encodeRead (.outbuf .right j))
  | .wrOutbuf1 j st v => some (encodeWrite (.outbuf .right j) st v)
  | .busUnmapped acc a => some (encodeAccess acc a)
  | .frame last d1 d0 => some (.streamIn (Machine.frameBits last d1 d0))
  | .take => some .streamOut
  | .ingest _ _ => none
  | .apply => none
  | .syncAck => none
  | .syncW2R _ => none
  | .syncR2W _ => none
  | .fftStep _ => none

/-- The transfer that a word of the opcode table's numbering stands for (DESIGN CHOICE, log 9).
- 32 bits: a command word, "the data word of a BUS write to CMD" (rows of format C0, CO, CC).
- 17 to 24 bits, and 53 to 56: a bus access, whose table word is the 17 bits WE over ADDR (rows of format
  BUS); the bits above them are zero, which is a full-word access of data 0 (log 2).
- 65 to 72 bits, and 1 to 8 (the table prints the stream rows' match as one digit): an input frame.
TAKE and the internal rows have no word. -/
def tableTransfer (nbits w : Nat) : Option Transfer :=
  if nbits = 32 then some (.bus (.command (BitVec.ofNat 32 w)))
  else if 17 ≤ nbits && nbits ≤ 24 then some (.bus (.access (BitVec.ofNat 53 (w % 2 ^ nbits))))
  else if 53 ≤ nbits && nbits ≤ 56 then some (.bus (.access (BitVec.ofNat 53 w)))
  else if 65 ≤ nbits && nbits ≤ 72 then some (.streamIn (BitVec.ofNat 65 w))
  else if 1 ≤ nbits && nbits ≤ 8 then some (.streamIn (BitVec.ofNat 65 (w % 2 ^ nbits)))
  else none

/-- The instruction the decoder reads from a word of the opcode table's numbering (log 9). -/
def decodeTableWord (nbits w : Nat) : Option Instr := (tableTransfer nbits w).map decode

end Sys2Proof
end

