-- ==== Sys2Proof/Machine/Schedule.lean ====
section
/-!
DEFINITION. Which operation the next agent performs (00_scope R6, 70_reset R495): the block has no program
counter (10_state R32), so an agent's next operation is what its port or its unit holds.
-/

namespace Sys2Proof.Machine

/-- The next agent, and the state once it is chosen: the head of the listed turns, else a free choice
(70_reset R495, U13). -/
def nextTurn (s : State) : Config.Turn × State :=
  match s.turns with
  | t :: ts => (t, { s with turns := ts })
  | [] => (Config.freeTurn s.free, { s with free := s.free + 1 })

/-- The operation an agent performs: HOST_BUS its next access, AUDIO_SRC the frame it offers, AUDIO_SINK a
TAKE, a unit its internal step. `none` when a host agent has nothing to do, and for the reset event,
which is no operation. -/
def fetch (t : Config.Turn) (s : State) : Option Instr :=
  match t with
  | .hostBus =>
    match s.busQ with
    | [] => none
    | b :: _ => some (decode (.bus b))
  | .audioSrc =>
    match s.srcQ with
    | [] => none
    | f :: _ => some (decode (.streamIn f))
  | .audioSink => some (decode .streamOut)
  | .audio => some .apply
  | .syncAck => some .syncAck
  | .syncW2R c => some (.syncW2R c)
  | .syncR2W c => some (.syncR2W c)
  | .fft c => some (.fftStep c)
  | .reset => none

/-- What an agent's operation uses up: an access is issued once (20_memory R111); an offered frame is
consumed only when `s_ready = 1` (40_filter_chain R203). -/
def consume (t : Config.Turn) (s : State) : State :=
  match t with
  | .hostBus => { s with busQ := s.busQ.tail }
  | .audioSrc => if sReady s then { s with srcQ := s.srcQ.tail } else s
  | .audioSink | .audio | .syncAck | .syncW2R _ | .syncR2W _ | .fft _ | .reset => s

/-- An agent's move that is no operation: the reset event, or nothing. -/
def idle (t : Config.Turn) (s : State) : State :=
  match t with
  | .reset => resetBlock s
  | .hostBus | .audioSrc | .audioSink | .audio | .syncAck | .syncW2R _ | .syncR2W _ | .fft _ => s

/-- A transfer placed where its agent takes it up next, and that agent's turn placed first. -/
def placeTransfer (t : Transfer) (s : State) : State :=
  match t with
  | .bus b => { s with turns := .hostBus :: s.turns, busQ := b :: s.busQ }
  | .streamIn f => { s with turns := .audioSrc :: s.turns, srcQ := f :: s.srcQ }
  | .streamOut => { s with turns := .audioSink :: s.turns }

end Sys2Proof.Machine
end

