-- ==== Sys2Proof/Machine/Step.lean ====
section
/-!
DEFINITION. One step of the machine: one agent's move (00_scope R6, 30_encoding R140).
-/

namespace Sys2Proof.Machine

/-- The move of agent `t`: its operation, run, or its idle move. -/
def runTurn (t : Config.Turn) (s : State) : Host.Outcome State Fault Refusal :=
  match fetch t s with
  | some i => exec i (consume t s)
  | none => .next (idle t s)

/-- One step: the next agent moves. Every interleaving of the agents is some list of turns
(70_reset R495; log 1). -/
def step (s : State) : Host.Outcome State Fault Refusal :=
  runTurn (nextTurn s).1 (nextTurn s).2

/-- `s` with the word `w` of the opcode table's numbering placed where the very next step takes it up;
unchanged when the width is no format's (logs 1 and 9). -/
def State.withFetchWord (s : State) (nbits w : Nat) : State :=
  match tableTransfer nbits w with
  | some t => placeTransfer t s
  | none => s

end Sys2Proof.Machine
end

