-- ==== Sys2Proof/Safety.lean ====
section
/-!
DEFINITION. The terms the claims use: what a good state is, what a queue holds, which internal step is
enabled, and the accuracy properties of the parameters.
-/

namespace Sys2Proof.Safety

open Sys2Proof Sys2Proof.Machine

/-! ## Invariants -/

/-- Both channels' word memories have the canonical form. -/
def MemoriesCanonical (s : State) : Prop :=
  ∀ c, memWf (getCh s c).acc = true ∧ memWf (getCh s c).ob.data = true

/-- PEND_A = 1 implies PEND_C = 1 (10_state R59). -/
def HandshakeOk (s : State) : Prop := s.pendA = true → s.pendC = true

/-- The true occupancy of FIFO-A, `(wr - rd) mod 2^PW` (41_fifo R271). -/
def trueLevelA (f : FifoA) : Nat := (f.wr - f.rd).toNat

/-- The order of the views of FIFO-A (41_fifo R286). -/
def FifoAOk (f : FifoA) : Prop :=
  levelR f ≤ trueLevelA f ∧ trueLevelA f ≤ levelW f ∧ levelW f ≤ Config.capacity

/-- FIFO-B never holds more than its capacity (41_fifo R286). -/
def FifoBOk (f : FifoB) : Prop := levelB f ≤ Config.capacity

/-- The FIFO invariants of both channels (41_fifo R286). -/
def LevelsOk (s : State) : Prop := ∀ c, FifoAOk (getCh s c).fa ∧ FifoBOk (getCh s c).fb

/-- The unread snapshots of FIFO-A, oldest first. -/
def contentsA (f : FifoA) : List (List F32) :=
  (List.range (trueLevelA f)).map fun i => f.slot[slotIx (f.rd + BitVec.ofNat 6 i)]

/-- The unread snapshots of FIFO-B, oldest first. -/
def contentsB (f : FifoB) : List Spectrum :=
  (List.range (levelB f)).map fun i => f.slot[slotIx (f.rd + BitVec.ofNat 6 i)]

/-- The configuration registers hold legal values: FFT_ORDER 11..13 (10_state R42), ACC_LEN and LLIVE
1..8192 (R43, R44), a finite FLOOR (R45). -/
def ConfigOk (s : State) : Prop :=
  orderLegal s.fftOrder = true ∧
  1 ≤ s.accLen.toNat ∧ s.accLen.toNat ≤ Config.maxLen ∧
  1 ≤ s.llive.toNat ∧ s.llive.toNat ≤ Config.maxLen ∧
  f32IsFinite s.floor = true

/-- `ACNT[c]` lies in 0..L-1 (10_state R61). -/
def CollectorsOk (s : State) : Prop := ∀ c, (getCh s c).acnt < s.llive.toNat

/-- `H[c]` has exactly F elements and `HCNT[c]` lies in 0..F (10_state R64). -/
def HistoriesOk (s : State) : Prop :=
  ∀ c, (getCh s c).hist.length = fftSize s.fftOrder ∧ (getCh s c).hcnt.toNat ≤ fftSize s.fftOrder

/-- The registers and counts that a step must keep in range. -/
def RegistersOk (s : State) : Prop :=
  HandshakeOk s ∧ ConfigOk s ∧ CollectorsOk s ∧ HistoriesOk s

/-- A frame is 1024, 2048 or 4096 bins long (10_state R63). -/
def frameLenLegal (n : BitVec 13) : Bool := n == 1024#13 || n == 2048#13 || n == 4096#13

/-- Every unread snapshot has its size: LLIVE samples in FIFO-A (10_state R62), a legal length and that
many bins in FIFO-B (R63); OUTBUF is valid with a legal length, or not valid with length 0 (R50, R65). -/
def SnapshotsOk (s : State) : Prop :=
  ∀ c, (∀ b ∈ contentsA (getCh s c).fa, b.length = s.llive.toNat) ∧
    (∀ v ∈ contentsB (getCh s c).fb, frameLenLegal v.len = true ∧ v.data.length = v.len.toNat) ∧
    (if (getCh s c).ob.valid then frameLenLegal (getCh s c).ob.len = true
     else (getCh s c).ob.len = 0#13)

/-! ## Errors (60_exceptions R443) -/

/-- What an error of class BUS leaves: ERR_INFO records the first error since both sticky bits were clear,
BUS_ERR is set, and the response says error with data `d`. -/
def busErrorState (code : BitVec 8) (a : Addr) (d : Option Word) (s : State) : State :=
  { s with
    err := if s.busErr = false ∧ s.cfgErr = false then ⟨code, a⟩ else s.err
    busErr := true
    resp := some ⟨true, d⟩ }

/-- What a refusal of class CFG leaves; every such refusal is of a write. -/
def cfgErrorState (code : BitVec 8) (a : Addr) (s : State) : State :=
  { s with
    err := if s.busErr = false ∧ s.cfgErr = false then ⟨code, a⟩ else s.err
    cfgErr := true
    resp := some ⟨true, none⟩ }

/-- What a refused command of opcode `opc` leaves: the CFG refusal at CMD, and CMD_RESULT code 3. -/
def refusedCmdState (code : BitVec 8) (opc : BitVec 8) (s : State) : State :=
  { cfgErrorState code 0x0018#16 s with res := ⟨3#2, opc, 0#8⟩ }

/-! ## Rows -/

/-- The registers whose write rule is "RO" in the dispatch table of 44_control R407. -/
def readOnlyReg : Reg → Bool
  | .id | .params | .chainLive | .cmdResult | .fftCfg | .accLenLive | .fifoaLevel _ | .fifobLevel _
  | .fifoaPtr _ | .fifobPtr _ | .outbufInfo _ | .histCnt _ | .errInfo | .coefLive _ _ | .outbuf _ _ => true
  | .ctrl | .chainCfg | .status | .cmd | .accLen | .silenceFloor | .coef _ _ => false

/-! ## Streams -/

/-- Every output frame so far, in order: those AUDIO_SINK has taken, then the one waiting in `OUT`. -/
def outputFrames (s : State) : List FrameBits :=
  s.taken ++ if s.out.full then [outFrame s.out] else []

/-- A run of samples fed to a collector one at a time (42_collector R325). -/
def ingestAll (len : Nat) : List F32 → Chan → Chan
  | [], k => k
  | v :: vs, k => ingestAll len vs (ingestChan len v k)

/-- The whole blocks of `len` samples that a run of samples holds. -/
def blocks (len : Nat) (vs : List F32) : List (List F32) :=
  (List.range (vs.length / len)).map fun b => (vs.drop (b * len)).take len

/-- A run of pushes into a FIFO-B. -/
def pushAllB : List Spectrum → FifoB → FifoB
  | [], f => f
  | v :: vs, f => pushAllB vs (pushB f v).2

/-- `n` pulls from a FIFO-B: what each returned, and the FIFO left. -/
def pullAllB : Nat → FifoB → List (Option Spectrum) × FifoB
  | 0, f => ([], f)
  | n + 1, f =>
    match pullB f with
    | none => (none :: (pullAllB n f).1, (pullAllB n f).2)
    | some (v, f') => (some v :: (pullAllB n f').1, (pullAllB n f').2)

/-- A FIFO-A with both synchronisers settled (41_fifo R287). -/
def settle (f : FifoA) : FifoA := syncR2WFifo (syncW2RFifo f)

/-- A run of pushes into a FIFO-A, the synchronisers settled after each. -/
def pushAllA : List (List F32) → FifoA → FifoA
  | [], f => f
  | v :: vs, f => pushAllA vs (settle (pushA f v).2)

/-- `n` pulls from a FIFO-A, the synchronisers settled after each: what each returned, and the FIFO left. -/
def pullAllA : Nat → FifoA → List (Option (List F32)) × FifoA
  | 0, f => ([], f)
  | n + 1, f =>
    match pullA f with
    | none => (none :: (pullAllA n (settle f)).1, (pullAllA n (settle f)).2)
    | some (v, f') => (some v :: (pullAllA n (settle f')).1, (pullAllA n (settle f')).2)

/-! ## Internal steps and quiescence (70_reset R495) -/

/-- The enabling condition of an internal step; host operations do not count. -/
def internalEnabled (s : State) : Instr → Bool
  | .apply => s.pendA && s.atb
  | .syncAck => s.pendC && !s.pendA
  | .syncW2R c => (getCh s c).fa.wsync != gray (getCh s c).fa.wr
  | .syncR2W c => (getCh s c).fa.rsync != gray (getCh s c).fa.rd
  | .fftStep c => s.ctrl.fftEn && decide (0 < levelR (getCh s c).fa)
  | _ => false

/-- No internal step is enabled. -/
def Quiescent (s : State) : Prop := ∀ i, internalEnabled s i = false

/-! ## Numbers and parameters -/

/-- `v` is the exact result `r` rounded to binary32 with sign `neg` (00_scope R9): an infinity from half a unit
above the largest finite magnitude, else the nearest finite value, the even one of two equally near. -/
def IsRounding (r : ℚ) (neg : Bool) (v : F32) : Prop :=
  f32Sign v = neg ∧
  if (2 ^ 25 - 1) * 2 ^ 103 ≤ |r| then f32Abs v = f32Inf
  else f32IsFinite v = true ∧ ∀ p : F32, f32IsFinite p = true →
    |r - f32Rat v| ≤ |r - f32Rat p| ∧
    (|r - f32Rat v| = |r - f32Rat p| → f32Rat p ≠ f32Rat v → v.getLsbD 0 = false)

/-- Finite and greater than zero. -/
def f32Pos (a : F32) : Bool := f32IsFinite a && !f32Sign a && !f32IsZero a

/-- DB-P3 for a value of DB_TOL (43_spectrum R343). -/
def DbAccurate (tol : ℚ) : Prop :=
  ∀ m : F32, f32Pos m = true → f32IsFinite (db20 m) = true ∧
    |((f32Rat (db20 m) : ℚ) : ℝ) - 20 * Real.logb 10 ((f32Rat m : ℚ) : ℝ)| ≤ (tol : ℝ)

end Sys2Proof.Safety
end

