-- ==== Sys2Proof/Certificates/Slice0/Obligations.lean ====
section
/-!
DEFINITION. The statements for the provers.

A response `⟨err, data⟩` is the model's record of the ports `bus_err` and `bus_rdata` (log 4). `0xF#4` is
the full strobe of a write.
-/

open Sys2Proof Sys2Proof.Machine Sys2Proof.Safety

/-! ## Encoding -/

/-- Every well-formed instruction that has an encoding is read back from it, with every operand
(30_encoding R141 to R148). Where a bus access's strobes and data lie is the model's choice (log 2). -/
def Obligations.EncodedInstructionsDecodeBack : Prop :=
  ∀ (i : Instr) (t : Transfer), i.wf = true → encode i = some t → decode t = i

/-- Whatever the ports carry decodes to a well-formed instruction, and one that has an encoding; which row a
misaligned access decodes to is the model's choice (log 10). -/
def Obligations.EveryTransferDecodesWellFormed : Prop :=
  ∀ t : Transfer, (decode t).wf = true ∧ (encode (decode t)).isSome = true

/-- 30_encoding R146: which command words are illegal, what an illegal one does, and that SET_FFT_ORDER with
an order out of range is a legal encoding refused by value. -/
def Obligations.IllegalCommandWordsAreRefused : Prop :=
  (∀ w : Word, decode (.bus (.command w)) = .cmdReserved w ↔
    ¬ ((w.toNat / 2 ^ 24 ≤ 3 ∧ w.toNat % 2 ^ 24 = 0) ∨
       (w.toNat / 2 ^ 24 = 4 ∧ w.toNat % 2 ^ 24 < 16) ∨
       ((w.toNat / 2 ^ 24 = 5 ∨ w.toNat / 2 ^ 24 = 6) ∧ w.toNat % 2 ^ 24 < 2))) ∧
  (∀ (w : Word) (s : State), exec (.cmdReserved w) s = .next (refusedCmdState 5#8 (w.extractLsb' 24 8) s)) ∧
  (∀ ord : BitVec 4, decode (.bus (.command (0x0400000#28 ++ ord))) = .setFftOrder ord) ∧
  (∀ (ord : BitVec 4) (s : State), s.ctrl.fftEn = false → ord ≠ 11#4 → ord ≠ 12#4 → ord ≠ 13#4 →
    exec (.setFftOrder ord) s = .next (refusedCmdState 7#8 0x04#8 s))

/-- The address map is the inverse of the registers' addresses, which are those of 10_state R33, and 8307 word
addresses are mapped (44_control R407). -/
def Obligations.AddressMapIsTheDispatchTable : Prop :=
  (∀ (a : Addr) (r : Reg), regAt a = some r ↔ regAddr r = a) ∧
  ((List.range (2 ^ 16)).filter fun n => (regAt (BitVec.ofNat 16 n)).isSome).length = 8307 ∧
  regAddr .id = 0x0000#16 ∧ regAddr .params = 0x0004#16 ∧ regAddr .ctrl = 0x0008#16 ∧
  regAddr .chainCfg = 0x000C#16 ∧ regAddr .chainLive = 0x0010#16 ∧ regAddr .status = 0x0014#16 ∧
  regAddr .cmd = 0x0018#16 ∧ regAddr .cmdResult = 0x001C#16 ∧ regAddr .fftCfg = 0x0020#16 ∧
  regAddr .accLen = 0x0024#16 ∧ regAddr .accLenLive = 0x0028#16 ∧ regAddr .silenceFloor = 0x002C#16 ∧
  regAddr (.fifoaLevel .left) = 0x0030#16 ∧ regAddr (.fifoaLevel .right) = 0x0034#16 ∧
  regAddr (.fifobLevel .left) = 0x0038#16 ∧ regAddr (.fifobLevel .right) = 0x003C#16 ∧
  regAddr (.fifoaPtr .left) = 0x0040#16 ∧ regAddr (.fifoaPtr .right) = 0x0044#16 ∧
  regAddr (.fifobPtr .left) = 0x0048#16 ∧ regAddr (.fifobPtr .right) = 0x004C#16 ∧
  regAddr (.outbufInfo .left) = 0x0050#16 ∧ regAddr (.outbufInfo .right) = 0x0054#16 ∧
  regAddr (.histCnt .left) = 0x0058#16 ∧ regAddr (.histCnt .right) = 0x005C#16 ∧
  regAddr .errInfo = 0x0060#16 ∧
  (∀ (i : Sec) (k : Tap),
    regAddr (.coef i k) = BitVec.ofNat 16 (0x0100 + 0x20 * i.val + 4 * k.index) ∧
    regAddr (.coefLive i k) = BitVec.ofNat 16 (0x0300 + 0x20 * i.val + 4 * k.index)) ∧
  (∀ j : BitVec 12,
    regAddr (.outbuf .left j) = BitVec.ofNat 16 (0x4000 + 4 * j.toNat) ∧
    regAddr (.outbuf .right j) = BitVec.ofNat 16 (0x8000 + 4 * j.toNat))

/-- Words written out from the encoding tables decode to the operations they stand for
(30_encoding R141 to R145, 10_state R33). A bus word with nothing above bit 16 stands for a full-word access
of data 0 (log 2), and a misaligned one for BUS_READ_CHECKS (log 10): the model's choices. -/
def Obligations.WordsOfTheTablesDecode : Prop :=
  decodeTableWord 32 0x00000000 = some .nop ∧
  decodeTableWord 32 0x0400000C = some (.setFftOrder 12#4) ∧
  decodeTableWord 32 0x06000001 = some (.pullLatest .right) ∧
  decodeTableWord 32 0x05000002 = some (.cmdReserved 0x05000002#32) ∧
  decodeTableWord 24 0x00014 = some .rdStatus ∧
  decodeTableWord 24 0x10008 = some (.wrCtrl 0xF#4 0#32) ∧
  decodeTableWord 24 0x00034 = some (.rdFifoaLevel .right) ∧
  decodeTableWord 24 0x0012C = some (.rdCoefS07 1#3 .a1) ∧
  decodeTableWord 24 0x08004 = some (.rdOutbuf1 1#12) ∧
  decodeTableWord 24 0x00114 = some (.busUnmapped .rd 0x0114#16) ∧
  decodeTableWord 24 0x00002 = some (.busReadChecks 0x0002#16) ∧
  decodeTableWord 72 0x1400000003F800000 = some (.frame true 0x40000000#32 0x3F800000#32)

/-! ## The step -/

/-- A step is the move of the next agent: HOST_BUS runs its next access and has issued it; AUDIO_SRC offers
its next frame, which it keeps while `s_ready = 0`; AUDIO_SINK runs TAKE; the units run their internal
steps; a host agent with nothing to do, does nothing; reset resets the block. The turns and queues are the
model's form of the schedule (log 1); with no turn listed the next agent is a free choice (log 3); a turn
whose operation is not enabled changes nothing, a FRAME's offer aside (log 12). What the reset event leaves of
the environment (frames delivered, accesses, frames and turns to come, the free count) and that it clears the
recorded response are the model's choice (log 14). -/
def Obligations.StepRunsTheNextAgentsOperation : Prop :=
  (∀ (s : State) (ts : List Config.Turn) (b : BusOp) (q : List BusOp),
    s.turns = .hostBus :: ts → s.busQ = b :: q →
    step s = exec (decode (.bus b)) { s with turns := ts, busQ := q }) ∧
  (∀ (s : State) (ts : List Config.Turn) (f : FrameBits) (q : List FrameBits),
    s.turns = .audioSrc :: ts → s.srcQ = f :: q →
    step s = exec (decode (.streamIn f))
      { s with turns := ts, srcQ := if s.ctrl.run = true ∧ s.out.full = false then q else f :: q }) ∧
  (∀ (s : State) (ts : List Config.Turn), s.turns = .audioSink :: ts →
    step s = exec .take { s with turns := ts }) ∧
  (∀ (s : State) (ts : List Config.Turn), s.turns = .audio :: ts →
    step s = exec .apply { s with turns := ts }) ∧
  (∀ (s : State) (ts : List Config.Turn), s.turns = .syncAck :: ts →
    step s = exec .syncAck { s with turns := ts }) ∧
  (∀ (s : State) (ts : List Config.Turn) (c : Ch), s.turns = .syncW2R c :: ts →
    step s = exec (.syncW2R c) { s with turns := ts }) ∧
  (∀ (s : State) (ts : List Config.Turn) (c : Ch), s.turns = .syncR2W c :: ts →
    step s = exec (.syncR2W c) { s with turns := ts }) ∧
  (∀ (s : State) (ts : List Config.Turn) (c : Ch), s.turns = .fft c :: ts →
    step s = exec (.fftStep c) { s with turns := ts }) ∧
  (∀ (s : State) (ts : List Config.Turn), s.turns = .hostBus :: ts → s.busQ = [] →
    step s = .next { s with turns := ts }) ∧
  (∀ (s : State) (ts : List Config.Turn), s.turns = .audioSrc :: ts → s.srcQ = [] →
    step s = .next { s with turns := ts }) ∧
  (∀ (s : State) (ts : List Config.Turn), s.turns = .reset :: ts →
    step s = .next { State.reset with
      taken := s.taken, turns := ts, busQ := s.busQ, srcQ := s.srcQ, free := s.free }) ∧
  (∀ s : State, s.turns = [] →
    step s = step { s with turns := [Config.freeTurn s.free], free := s.free + 1 }) ∧
  (∀ s : State, s.out.full = false → exec .take s = .next s) ∧
  (∀ s : State, s.pendA = false ∨ s.atb = false → exec .apply s = .next s) ∧
  (∀ s : State, s.pendC = false ∨ s.pendA = true → exec .syncAck s = .next s) ∧
  (∀ (s : State) (c : Ch), s.ctrl.fftEn = false ∨ levelR (getCh s c).fa = 0 →
    exec (.fftStep c) s = .next s)

/-- No step stops the machine: the block goes on after every access, error or not
(60_exceptions R440, R446). -/
def Obligations.NoStepStopsTheMachine : Prop :=
  (∀ (i : Instr) (s : State), ∃ t, exec i s = .next t) ∧ (∀ s : State, ∃ t, step s = .next t)

/-! ## Commands -/

/-- 44_control R401. -/
def Obligations.NopOnlyMarksTheResult : Prop :=
  ∀ s : State, exec .nop s = .next { s with res := ⟨1#2, 0x00#8, 0#8⟩, resp := some ⟨false, none⟩ }

/-- 40_filter_chain R205. -/
def Obligations.CommitRaisesTheHandshake : Prop :=
  ∀ s : State,
    (s.pendC = false → exec .commit s = .next { s with
      pendC := true, pendA := true, res := ⟨1#2, 0x01#8, 0#8⟩, resp := some ⟨false, none⟩ }) ∧
    (s.pendC = true → exec .commit s = .next { s with
      res := ⟨1#2, 0x01#8, 0#8⟩, resp := some ⟨false, none⟩ })

/-- 44_control R400. -/
def Obligations.PrepareReinitialises : Prop :=
  ∀ s : State,
    let prepared : Chan → Chan := fun k =>
      { k with
        st := Vector.replicate 9 ⟨0#32, 0#32⟩
        acnt := 0
        fa := { k.fa with wr := 0#6, rd := 0#6, wsync := 0#6, rsync := 0#6 }
        hist := List.replicate (2 ^ s.fftOrder.toNat) 0#32
        hcnt := 0#14
        fb := { k.fb with wr := 0#6, rd := 0#6 }
        ob := { k.ob with valid := false, len := 0#13 } }
    (s.ctrl.run = false → s.ctrl.fftEn = false → exec .prepare s = .next { s with
      lv := if s.pendA then s.sh else s.lv
      pendA := false
      pendC := false
      llive := s.accLen
      ch := ⟨prepared s.ch.left, prepared s.ch.right⟩
      atb := true
      res := ⟨1#2, 0x02#8, 0#8⟩
      resp := some ⟨false, none⟩ }) ∧
    (s.ctrl.run = true ∨ s.ctrl.fftEn = true →
      exec .prepare s = .next (refusedCmdState 6#8 0x02#8 s))

/-- 40_filter_chain R208. -/
def Obligations.ClearStateZeroesTheDelays : Prop :=
  ∀ s : State, exec .clearState s = .next { s with
    ch := ⟨{ s.ch.left with st := Vector.replicate 9 ⟨0#32, 0#32⟩ },
           { s.ch.right with st := Vector.replicate 9 ⟨0#32, 0#32⟩ }⟩
    res := ⟨1#2, 0x03#8, 0#8⟩
    resp := some ⟨false, none⟩ }

/-- 43_spectrum R347. -/
def Obligations.SetFftOrderClearsHistories : Prop :=
  ∀ (s : State) (ord : BitVec 4),
    let cleared : Chan → Chan := fun k =>
      { k with
        hist := List.replicate (2 ^ ord.toNat) 0#32
        hcnt := 0#14
        fb := { k.fb with wr := 0#6, rd := 0#6 } }
    (s.ctrl.fftEn = true → exec (.setFftOrder ord) s = .next (refusedCmdState 6#8 0x04#8 s)) ∧
    (s.ctrl.fftEn = false → ord ≠ 11#4 → ord ≠ 12#4 → ord ≠ 13#4 →
      exec (.setFftOrder ord) s = .next (refusedCmdState 7#8 0x04#8 s)) ∧
    (s.ctrl.fftEn = false → ord = 11#4 ∨ ord = 12#4 ∨ ord = 13#4 →
      exec (.setFftOrder ord) s = .next { s with
        fftOrder := ord
        ch := ⟨cleared s.ch.left, cleared s.ch.right⟩
        res := ⟨1#2, 0x04#8, 0#8⟩
        resp := some ⟨false, none⟩ })

/-- 41_fifo R280: an empty FIFO-B is reported and changes nothing else; a frame goes into OUTBUF, whose
words beyond it keep their contents. -/
def Obligations.PullFrameLoadsTheOldestFrame : Prop :=
  ∀ (s : State) (c : Ch),
    let k := getCh s c
    let v := k.fb.slot[k.fb.rd.toNat % 32]'(Nat.mod_lt _ (by decide))
    (k.fb.wr = k.fb.rd → exec (.pullFrame c) s = .next { s with
      res := ⟨2#2, 0x05#8, 0#8⟩, resp := some ⟨false, none⟩ }) ∧
    (k.fb.wr ≠ k.fb.rd → ∃ data : Mem,
      exec (.pullFrame c) s = .next { setCh s c
        { k with fb := { k.fb with rd := k.fb.rd + 1 }, ob := ⟨true, v.len, data⟩ } with
          res := ⟨1#2, 0x05#8, 1#8⟩, resp := some ⟨false, none⟩ } ∧
      (v.data.length = v.len.toNat →
        ∀ j, memRead data j = if h : j < v.data.length then v.data[j] else memRead k.ob.data j))

/-- 41_fifo R281: all frames are pulled, the last one is kept, and the count is reported. -/
def Obligations.PullLatestKeepsTheNewestFrame : Prop :=
  ∀ (s : State) (c : Ch),
    let k := getCh s c
    let v := k.fb.slot[(k.fb.wr - 1).toNat % 32]'(Nat.mod_lt _ (by decide))
    (k.fb.wr = k.fb.rd → exec (.pullLatest c) s = .next { s with
      res := ⟨2#2, 0x06#8, 0#8⟩, resp := some ⟨false, none⟩ }) ∧
    (k.fb.wr ≠ k.fb.rd → ∃ data : Mem,
      exec (.pullLatest c) s = .next { setCh s c
        { k with fb := { k.fb with rd := k.fb.wr }, ob := ⟨true, v.len, data⟩ } with
          res := ⟨1#2, 0x06#8, 0#2 ++ (k.fb.wr - k.fb.rd)⟩, resp := some ⟨false, none⟩ } ∧
      (v.data.length = v.len.toNat →
        ∀ j, memRead data j = if h : j < v.data.length then v.data[j] else memRead k.ob.data j))

/-- A full write of a word to CMD does what the command word does; a partial one is refused and leaves
CMD_RESULT alone (44_control R402, R398). -/
def Obligations.WriteOfCmdRunsTheCommandWord : Prop :=
  ∀ (w : Word) (s : State),
    (∃ t, exec (.wrCmd 0xF#4 w) s = .next t ∧ exec (decode (.bus (.command w))) s = .next t) ∧
    (∀ st : Strobes, st ≠ 0xF#4 → exec (.wrCmd st w) s = .next (busErrorState 2#8 0x0018#16 none s))

/-! ## Bus accesses -/

/-- 44_control R390: a read is checked for alignment, then for mapping, then does what its row does. -/
def Obligations.ReadAccessIsCheckedThenDispatched : Prop :=
  ∀ (a : Addr) (s : State),
    (a.toNat % 4 ≠ 0 → exec (.busReadChecks a) s = .next (busErrorState 1#8 a (some 0#32) s)) ∧
    (a.toNat % 4 = 0 → (∀ r, regAddr r ≠ a) →
      exec (.busReadChecks a) s = .next (busErrorState 3#8 a (some 0#32) s)) ∧
    (∀ r, regAddr r = a → ∃ t v, exec (.busReadChecks a) s = .next t ∧
      exec (readRow r) s = .next t ∧ t.resp = some ⟨false, some v⟩)

/-- 44_control R391: a write is checked for alignment, strobes, mapping and read-only, in this order, and
then does what its row does. -/
def Obligations.WriteAccessIsCheckedThenDispatched : Prop :=
  ∀ (a : Addr) (st : Strobes) (v : Word) (s : State),
    (a.toNat % 4 ≠ 0 → exec (.busWriteChecks a st v) s = .next (busErrorState 1#8 a none s)) ∧
    (a.toNat % 4 = 0 → st ≠ 0xF#4 →
      exec (.busWriteChecks a st v) s = .next (busErrorState 2#8 a none s)) ∧
    (a.toNat % 4 = 0 → (∀ r, regAddr r ≠ a) →
      exec (.busWriteChecks a 0xF#4 v) s = .next (busErrorState 3#8 a none s)) ∧
    (∀ r, regAddr r = a → readOnlyReg r = true →
      exec (.busWriteChecks a 0xF#4 v) s = .next (busErrorState 4#8 a none s)) ∧
    (∀ r, regAddr r = a → readOnlyReg r = false → ∃ t, exec (.busWriteChecks a 0xF#4 v) s = .next t ∧
      exec (writeRow 0xF#4 v r) s = .next t)

/-- 44_control R405, for every read-only row: WR_ID, WR_PARAMS, WR_CHAIN_LIVE, WR_CMD_RESULT, WR_FFT_CFG,
WR_ACC_LEN_LIVE, WR_ERR_INFO, WR_FIFOA_LEVEL, WR_FIFOB_LEVEL, WR_FIFOA_PTR, WR_FIFOB_PTR,
WR_OUTBUF_INFO, WR_HIST_CNT, WR_COEF_LIVE_S0_7, WR_COEF_LIVE_S8, WR_OUTBUF0, WR_OUTBUF1. -/
def Obligations.WritesOfReadOnlyRegistersAreRefused : Prop :=
  ∀ (v : Word) (s : State),
    exec (.wrId 0xF#4 v) s = .next (busErrorState 4#8 0x0000#16 none s) ∧
    exec (.wrParams 0xF#4 v) s = .next (busErrorState 4#8 0x0004#16 none s) ∧
    exec (.wrChainLive 0xF#4 v) s = .next (busErrorState 4#8 0x0010#16 none s) ∧
    exec (.wrCmdResult 0xF#4 v) s = .next (busErrorState 4#8 0x001C#16 none s) ∧
    exec (.wrFftCfg 0xF#4 v) s = .next (busErrorState 4#8 0x0020#16 none s) ∧
    exec (.wrAccLenLive 0xF#4 v) s = .next (busErrorState 4#8 0x0028#16 none s) ∧
    exec (.wrErrInfo 0xF#4 v) s = .next (busErrorState 4#8 0x0060#16 none s) ∧
    (∀ c : Ch,
      exec (.wrFifoaLevel c 0xF#4 v) s =
        .next (busErrorState 4#8 (BitVec.ofNat 16 (0x0030 + 4 * c.bit.toNat)) none s) ∧
      exec (.wrFifobLevel c 0xF#4 v) s =
        .next (busErrorState 4#8 (BitVec.ofNat 16 (0x0038 + 4 * c.bit.toNat)) none s) ∧
      exec (.wrFifoaPtr c 0xF#4 v) s =
        .next (busErrorState 4#8 (BitVec.ofNat 16 (0x0040 + 4 * c.bit.toNat)) none s) ∧
      exec (.wrFifobPtr c 0xF#4 v) s =
        .next (busErrorState 4#8 (BitVec.ofNat 16 (0x0048 + 4 * c.bit.toNat)) none s) ∧
      exec (.wrOutbufInfo c 0xF#4 v) s =
        .next (busErrorState 4#8 (BitVec.ofNat 16 (0x0050 + 4 * c.bit.toNat)) none s) ∧
      exec (.wrHistCnt c 0xF#4 v) s =
        .next (busErrorState 4#8 (BitVec.ofNat 16 (0x0058 + 4 * c.bit.toNat)) none s)) ∧
    (∀ (i : BitVec 3) (k : Tap), exec (.wrCoefLiveS07 i k 0xF#4 v) s =
      .next (busErrorState 4#8 (BitVec.ofNat 16 (0x0300 + 0x20 * i.toNat + 4 * k.index)) none s)) ∧
    (∀ k : Tap, exec (.wrCoefLiveS8 k 0xF#4 v) s =
      .next (busErrorState 4#8 (BitVec.ofNat 16 (0x0400 + 4 * k.index)) none s)) ∧
    (∀ j : BitVec 12,
      exec (.wrOutbuf0 j 0xF#4 v) s = .next (busErrorState 4#8 (1#2 ++ j ++ 0#2) none s) ∧
      exec (.wrOutbuf1 j 0xF#4 v) s = .next (busErrorState 4#8 (2#2 ++ j ++ 0#2) none s))

/-- 20_memory R104: whatever the register, a partial write is refused with code 2 and stores nothing. -/
def Obligations.PartialWritesAreRefused : Prop :=
  ∀ (r : Reg) (st : Strobes) (v : Word) (s : State), st ≠ 0xF#4 →
    exec (writeRow st v r) s = .next (busErrorState 2#8 (regAddr r) none s)

/-- 44_control R406, and the precedence of a partial write over an unmapped one (60_exceptions R442). -/
def Obligations.UnmappedAccessesAreRefused : Prop :=
  ∀ (a : Addr) (v : Word) (s : State),
    exec (.busUnmapped .rd a) s = .next (busErrorState 3#8 a (some 0#32) s) ∧
    exec (.busUnmapped (.wr 0xF#4 v) a) s = .next (busErrorState 3#8 a none s) ∧
    (∀ st : Strobes, st ≠ 0xF#4 →
      exec (.busUnmapped (.wr st v) a) s = .next (busErrorState 2#8 a none s))

/-! ## Reads -/

/-- 44_control R392, R393, R395, R397, R399, R403, R404. -/
def Obligations.ControlRegistersReadBack : Prop :=
  ∀ s : State,
    exec .rdId s = .next { s with resp := some ⟨false, some 0x53455101#32⟩ } ∧
    exec .rdParams s = .next { s with resp := some ⟨false, some 0x02BD1E42#32⟩ } ∧
    exec .rdCtrl s = .next { s with resp := some ⟨false, some
      (0#29 ++ BitVec.ofBool s.ctrl.tapPre ++ BitVec.ofBool s.ctrl.fftEn ++ BitVec.ofBool s.ctrl.run)⟩ } ∧
    exec .rdStatus s = .next { s with resp := some ⟨false, some
      (0#26 ++ BitVec.ofBool s.cfgErr ++ BitVec.ofBool s.busErr ++ 0#3 ++ BitVec.ofBool s.pendC)⟩ } ∧
    exec .rdCmd s = .next { s with resp := some ⟨false, some 0#32⟩ } ∧
    exec .rdCmdResult s = .next { s with resp := some ⟨false, some
      (0#8 ++ s.res.count ++ s.res.opc ++ 0#6 ++ s.res.code)⟩ } ∧
    exec .rdErrInfo s = .next { s with resp := some ⟨false, some (s.err.addr ++ 0#8 ++ s.err.code)⟩ }

/-- 40_filter_chain R212: the shadow reads back whatever COMMIT_PENDING is. -/
def Obligations.ShadowRegistersReadBack : Prop :=
  ∀ s : State,
    exec .rdChainCfg s = .next { s with resp := some ⟨false, some
      (0#22 ++ s.sh.cfg.hcSlope ++ 0#2 ++ s.sh.cfg.lcSlope ++ 0#1 ++ BitVec.ofBool s.sh.cfg.hcByp ++
        BitVec.ofBool s.sh.cfg.pkByp ++ BitVec.ofBool s.sh.cfg.lcByp)⟩ } ∧
    (∀ (i : BitVec 3) (k : Tap), exec (.rdCoefS07 i k) s =
      .next { s with resp := some ⟨false, some (tapGet (s.sh.coef[i.toNat]'(by omega)) k)⟩ }) ∧
    (∀ k : Tap, exec (.rdCoefS8 k) s = .next { s with resp := some ⟨false, some (tapGet s.sh.coef[8] k)⟩ })

/-- 40_filter_chain R211: the live set reads back exactly while no commit is pending; while one is, the
read returns some value and changes nothing but the count of free values drawn (log 7). -/
def Obligations.LiveRegistersReadBack : Prop :=
  ∀ s : State,
    (s.pendC = false →
      exec .rdChainLive s = .next { s with resp := some ⟨false, some
        (0#22 ++ s.lv.cfg.hcSlope ++ 0#2 ++ s.lv.cfg.lcSlope ++ 0#1 ++ BitVec.ofBool s.lv.cfg.hcByp ++
          BitVec.ofBool s.lv.cfg.pkByp ++ BitVec.ofBool s.lv.cfg.lcByp)⟩ } ∧
      (∀ (i : BitVec 3) (k : Tap), exec (.rdCoefLiveS07 i k) s =
        .next { s with resp := some ⟨false, some (tapGet (s.lv.coef[i.toNat]'(by omega)) k)⟩ }) ∧
      (∀ k : Tap, exec (.rdCoefLiveS8 k) s =
        .next { s with resp := some ⟨false, some (tapGet s.lv.coef[8] k)⟩ })) ∧
    (s.pendC = true →
      (∃ v : Word, exec .rdChainLive s =
        .next { s with resp := some ⟨false, some v⟩, free := s.free + 1 }) ∧
      (∀ (i : BitVec 3) (k : Tap), ∃ v : Word, exec (.rdCoefLiveS07 i k) s =
        .next { s with resp := some ⟨false, some v⟩, free := s.free + 1 }) ∧
      (∀ k : Tap, ∃ v : Word, exec (.rdCoefLiveS8 k) s =
        .next { s with resp := some ⟨false, some v⟩, free := s.free + 1 }))

/-- 41_fifo R282 to R284, and the read of R285: the last two rows are the two channels' OUTBUF windows. -/
def Obligations.FifoViewsReadBack : Prop :=
  (∀ (s : State) (c : Ch),
    let k := getCh s c
    exec (.rdFifoaLevel c) s = .next { s with resp := some ⟨false, some
      (0#26 ++ (gray2bin k.fa.wsync - k.fa.rd))⟩ } ∧
    exec (.rdFifobLevel c) s = .next { s with resp := some ⟨false, some (0#26 ++ (k.fb.wr - k.fb.rd))⟩ } ∧
    exec (.rdFifoaPtr c) s = .next { s with resp := some ⟨false, some
      (0#18 ++ k.fa.wsync ++ 0#2 ++ gray k.fa.rd)⟩ } ∧
    exec (.rdFifobPtr c) s = .next { s with resp := some ⟨false, some
      (0#18 ++ gray k.fb.wr ++ 0#2 ++ gray k.fb.rd)⟩ } ∧
    exec (.rdOutbufInfo c) s = .next { s with resp := some ⟨false, some
      (0#3 ++ k.ob.len ++ 0#15 ++ BitVec.ofBool k.ob.valid)⟩ }) ∧
  (∀ (s : State) (j : BitVec 12),
    exec (.rdOutbuf0 j) s = .next { s with resp := some ⟨false, some
      (if s.ch.left.ob.valid = true ∧ j.toNat < s.ch.left.ob.len.toNat then
        memRead s.ch.left.ob.data j.toNat else 0#32)⟩ } ∧
    exec (.rdOutbuf1 j) s = .next { s with resp := some ⟨false, some
      (if s.ch.right.ob.valid = true ∧ j.toNat < s.ch.right.ob.len.toNat then
        memRead s.ch.right.ob.data j.toNat else 0#32)⟩ })

/-- 42_collector R323, 43_spectrum R348, R350, R351. -/
def Obligations.AnalysisRegistersReadBack : Prop :=
  ∀ s : State,
    exec .rdAccLen s = .next { s with resp := some ⟨false, some (0#18 ++ s.accLen)⟩ } ∧
    exec .rdAccLenLive s = .next { s with resp := some ⟨false, some (0#18 ++ s.llive)⟩ } ∧
    exec .rdFftCfg s = .next { s with resp := some ⟨false, some (0#28 ++ s.fftOrder)⟩ } ∧
    exec .rdSilenceFloor s = .next { s with resp := some ⟨false, some s.floor⟩ } ∧
    (∀ c : Ch, exec (.rdHistCnt c) s =
      .next { s with resp := some ⟨false, some (0#18 ++ (getCh s c).hcnt)⟩ })

/-- 20_memory R106: a read of any mapped register changes nothing but the response (and, for a live
register while a commit is pending, the model's count of free values), and a second read of the same
address with nothing in between returns the same, but for that live read-back. -/
def Obligations.ReadsHaveNoSideEffects : Prop :=
  ∀ (r : Reg) (s : State), ∃ (v : Word) (n : Nat),
    exec (readRow r) s = .next { s with resp := some ⟨false, some v⟩, free := n } ∧
    (s.pendC = false ∨ (r ≠ .chainLive ∧ ∀ i k, r ≠ .coefLive i k) →
      n = s.free ∧ exec (readRow r) { s with resp := some ⟨false, some v⟩ } =
        .next { s with resp := some ⟨false, some v⟩ })

/-! ## Writes -/

/-- 44_control R394. -/
def Obligations.WriteCtrlStoresThreeBits : Prop :=
  ∀ (v : Word) (s : State), exec (.wrCtrl 0xF#4 v) s = .next { s with
    ctrl := ⟨v.getLsbD 0, v.getLsbD 1, v.getLsbD 2⟩, resp := some ⟨false, none⟩ }

/-- 44_control R396. -/
def Obligations.WriteStatusClearsStickyBits : Prop :=
  ∀ (v : Word) (s : State), exec (.wrStatus 0xF#4 v) s = .next { s with
    busErr := if v.getLsbD 4 = true then false else s.busErr
    cfgErr := if v.getLsbD 5 = true then false else s.cfgErr
    resp := some ⟨false, none⟩ }

/-- 40_filter_chain R210. -/
def Obligations.WriteChainCfgStoresTheShadow : Prop :=
  ∀ (v : Word) (s : State),
    (s.pendC = true → exec (.wrChainCfg 0xF#4 v) s = .next (cfgErrorState 8#8 0x000C#16 s)) ∧
    (s.pendC = false → exec (.wrChainCfg 0xF#4 v) s = .next { s with
      sh := { s.sh with cfg := ⟨v.getLsbD 0, v.getLsbD 1, v.getLsbD 2, v.extractLsb' 4 2, v.extractLsb' 8 2⟩ }
      resp := some ⟨false, none⟩ } ∧
      ∀ t, exec (.wrChainCfg 0xF#4 v) s = .next t →
        exec .rdChainCfg t = .next { t with resp := some ⟨false, some (v &&& 0x00000337#32)⟩ })

/-- 40_filter_chain R209: the addressed tap takes the word, every other coefficient word keeps its own, and
a pending commit locks the shadow. -/
def Obligations.WriteCoefStoresOneTap : Prop :=
  ∀ (v : Word) (s : State) (k : Tap),
    (s.pendC = true →
      (∀ i : BitVec 3, exec (.wrCoefS07 i k 0xF#4 v) s =
        .next (cfgErrorState 8#8 (BitVec.ofNat 16 (0x0100 + 0x20 * i.toNat + 4 * k.index)) s)) ∧
      exec (.wrCoefS8 k 0xF#4 v) s =
        .next (cfgErrorState 8#8 (BitVec.ofNat 16 (0x0200 + 4 * k.index)) s)) ∧
    (s.pendC = false →
      (∀ i : BitVec 3, ∃ coef : Vector Taps 9,
        exec (.wrCoefS07 i k 0xF#4 v) s =
          .next { s with sh := { s.sh with coef := coef }, resp := some ⟨false, none⟩ } ∧
        ∀ (j : Sec) (l : Tap), tapGet coef[j] l =
          if j.val = i.toNat ∧ l = k then v else tapGet s.sh.coef[j] l) ∧
      (∃ coef : Vector Taps 9,
        exec (.wrCoefS8 k 0xF#4 v) s =
          .next { s with sh := { s.sh with coef := coef }, resp := some ⟨false, none⟩ } ∧
        ∀ (j : Sec) (l : Tap), tapGet coef[j] l =
          if j.val = 8 ∧ l = k then v else tapGet s.sh.coef[j] l))

/-- 42_collector R322, and 43_spectrum R349: the legal floors are the words whose exponent field is not
all ones. -/
def Obligations.ValueWritesAreChecked : Prop :=
  ∀ (v : Word) (s : State),
    (1 ≤ v.toNat ∧ v.toNat ≤ 8192 → exec (.wrAccLen 0xF#4 v) s = .next { s with
      accLen := v.extractLsb' 0 14, resp := some ⟨false, none⟩ }) ∧
    (¬ (1 ≤ v.toNat ∧ v.toNat ≤ 8192) →
      exec (.wrAccLen 0xF#4 v) s = .next (cfgErrorState 7#8 0x0024#16 s)) ∧
    (v.extractLsb' 23 8 ≠ 0xFF#8 → exec (.wrSilenceFloor 0xF#4 v) s = .next { s with
      floor := v, resp := some ⟨false, none⟩ }) ∧
    (v.extractLsb' 23 8 = 0xFF#8 →
      exec (.wrSilenceFloor 0xF#4 v) s = .next (cfgErrorState 7#8 0x002C#16 s))

/-! ## The filter chain and the streams -/

/-- 40_filter_chain R203. -/
def Obligations.FrameIsFilteredAndCollected : Prop :=
  ∀ (s : State) (last : Bool) (d1 d0 : F32),
    let lv := if s.pendA = true ∧ s.atb = true then s.sh else s.lv
    let r0 := chain lv s.ch.left.st d0
    let r1 := chain lv s.ch.right.st d1
    (s.ctrl.run = true → s.out.full = false → exec (.frame last d1 d0) s = .next { s with
      lv := lv
      pendA := s.pendA && !s.atb
      ch := ⟨ingestChan s.llive.toNat (if s.ctrl.tapPre then d0 else r0.1) { s.ch.left with st := r0.2 },
             ingestChan s.llive.toNat (if s.ctrl.tapPre then d1 else r1.1) { s.ch.right with st := r1.2 }⟩
      out := ⟨true, r0.1, r1.1, last⟩
      atb := last }) ∧
    (s.ctrl.run = false ∨ s.out.full = true → exec (.frame last d1 d0) s = .next s)

/-- 40_filter_chain R204; `taken` records what is delivered (log 4). -/
def Obligations.TakeDeliversTheHeldFrame : Prop :=
  ∀ s : State,
    s.out.full = true → exec .take s = .next { s with
      taken := s.taken ++ [BitVec.ofBool s.out.last ++ s.out.y1 ++ s.out.y0]
      out := { s.out with full := false } }

/-- 40_filter_chain R206, R207. -/
def Obligations.CommitLandsAndIsAcknowledged : Prop :=
  ∀ s : State,
    (s.pendA = true → s.atb = true → exec .apply s = .next { s with lv := s.sh, pendA := false }) ∧
    (s.pendC = true → s.pendA = false → exec .syncAck s = .next { s with pendC := false })

/-- Whether APPLY or the frame at the block boundary makes the copy cannot be told (40_filter_chain R206). -/
def Obligations.ApplyBeforeAFrameIsUnobservable : Prop :=
  ∀ (s t : State) (last : Bool) (d1 d0 : F32), s.ctrl.run = true → s.out.full = false →
    exec .apply s = .next t → exec (.frame last d1 d0) t = exec (.frame last d1 d0) s

/-- 40_filter_chain R200 to R202: the section step, operation by operation; a section runs it, with its own
coefficients and delay state, exactly when it is active; the chain is sections 0 to 8 in this order. -/
def Obligations.SectionStepIsTransposedDirectForm : Prop :=
  (∀ (t : Taps) (d : Delay) (x : F32),
    let y := fadd (fmul t.b0 x) d.s1
    bq t d x = (y, ⟨fadd (fsub (fmul t.b1 x) (fmul t.a1 y)) d.s2, fsub (fmul t.b2 x) (fmul t.a2 y)⟩)) ∧
  (∀ (f : CoefFile) (i : Sec) (v : F32) (st : Vector Delay 9),
    (active f.cfg i = true →
      section1 f i (v, st) = ((bq f.coef[i] st[i] v).1, st.set i (bq f.coef[i] st[i] v).2)) ∧
    (active f.cfg i = false → section1 f i (v, st) = (v, st))) ∧
  (∀ (f : CoefFile) (st : Vector Delay 9) (x : F32),
    chain f st x = section1 f 8 (section1 f 7 (section1 f 6 (section1 f 5 (section1 f 4
      (section1 f 3 (section1 f 2 (section1 f 1 (section1 f 0 (x, st))))))))))

/-- 40_filter_chain R200, corner case: the identity section with cleared state passes every finite sample
bit for bit, but for -0.0, which gives +0.0. -/
def Obligations.IdentitySectionPassesFiniteSamples : Prop :=
  (∀ x : F32, f32IsFinite x = true → x ≠ 0x80000000#32 → (bq Taps.identity Delay.zero x).1 = x) ∧
  (bq Taps.identity Delay.zero 0x80000000#32).1 = 0x00000000#32

/-- 40_filter_chain R213, R214, 10_state R68: with slope S exactly the first S + 1 sections of a bank are
active, and none of a bypassed bank; Peak is active exactly when it is not bypassed; a bypassed bank, or the
bypassed Peak section, leaves the sample and every delay register as they
are, whatever the slopes and coefficients. -/
def Obligations.SlopeAndBypassSelectSections : Prop :=
  (∀ (cfg : ChainCfg) (i : Fin 4),
    (cfg.lcByp = false → (active cfg ⟨i.val, by omega⟩ = true ↔ i.val < cfg.lcSlope.toNat + 1)) ∧
    (cfg.hcByp = false → (active cfg ⟨i.val + 5, by omega⟩ = true ↔ i.val < cfg.hcSlope.toNat + 1)) ∧
    (cfg.lcByp = true → active cfg ⟨i.val, by omega⟩ = false) ∧
    (cfg.hcByp = true → active cfg ⟨i.val + 5, by omega⟩ = false)) ∧
  (∀ cfg : ChainCfg, active cfg 4 = true ↔ cfg.pkByp = false) ∧
  (∀ (f : CoefFile) (st : Vector Delay 9) (x : F32),
    (f.cfg.lcByp = true → chain f st x = chainFrom f [4, 5, 6, 7, 8] (x, st)) ∧
    (f.cfg.pkByp = true → chain f st x = chainFrom f [5, 6, 7, 8] (chainFrom f [0, 1, 2, 3] (x, st))) ∧
    (f.cfg.hcByp = true → chain f st x = chainFrom f [0, 1, 2, 3, 4] (x, st)) ∧
    (f.cfg.lcByp = true → f.cfg.pkByp = true → f.cfg.hcByp = true → chain f st x = (x, st)))

/-- 00_scope R9. Rounding takes the nearest binary32 value, the even one of two equally near, and infinity from
the half unit above the largest finite value; each operation on finite operands is its exact result rounded
once, with IEEE's sign of a zero; on other operands it is the canonical NaN, an infinity or a zero as IEEE has
it; comparisons compare values, and are false on a NaN. -/
def Obligations.RoundingIsNearestTiesToEven : Prop :=
  (∀ num den : Nat, 0 < den →
    2 * ((num : Int) - roundHalfEven num den * den).natAbs ≤ den ∧
    (2 * ((num : Int) - roundHalfEven num den * den).natAbs = den → roundHalfEven num den % 2 = 0)) ∧
  (∀ (a : F32) (den : Nat), f32IsFinite a = true → 0 < den →
    roundMag (f32Mag a * den) den = (f32Abs a).toNat) ∧
  (∀ num den : Nat, 0 < den → roundMag num den ≤ 0x7F800000 ∧
    IsRounding ((num : ℚ) / den / 2 ^ 149) false (f32Pack false (roundMag num den))) ∧
  (∀ a b : F32, f32IsFinite a = true → f32IsFinite b = true →
    let x := f32Rat a
    let y := f32Rat b
    let sx := f32Sign a
    let sy := f32Sign b
    IsRounding (x + y) (if x + y = 0 then sx && sy else decide (x + y < 0)) (fadd a b) ∧
    IsRounding (x - y) (if x - y = 0 then sx && !sy else decide (x - y < 0)) (fsub a b) ∧
    IsRounding (x * y) (sx != sy) (fmul a b) ∧
    (y ≠ 0 → IsRounding (x / y) (sx != sy) (fdiv a b)) ∧
    (y = 0 → x ≠ 0 → fdiv a b = f32Pack (sx != sy) 0x7F800000) ∧
    (y = 0 → x = 0 → fdiv a b = 0x7FC00000#32) ∧
    (flt a b = true ↔ x < y) ∧ (fle a b = true ↔ x ≤ y)) ∧
  (∀ a b : F32, f32IsNaN a = true ∨ f32IsNaN b = true →
    fadd a b = 0x7FC00000#32 ∧ fsub a b = 0x7FC00000#32 ∧ fmul a b = 0x7FC00000#32 ∧
    fdiv a b = 0x7FC00000#32 ∧ flt a b = false ∧ fle a b = false) ∧
  (∀ a b : F32, f32IsInf a = true → f32IsFinite b = true →
    let sx := f32Sign a
    let sy := f32Sign b
    fadd a b = f32Pack sx 0x7F800000 ∧ fadd b a = f32Pack sx 0x7F800000 ∧
    fsub a b = f32Pack sx 0x7F800000 ∧ fsub b a = f32Pack (!sx) 0x7F800000 ∧
    (f32Rat b = 0 → fmul a b = 0x7FC00000#32 ∧ fmul b a = 0x7FC00000#32) ∧
    (f32Rat b ≠ 0 → fmul a b = f32Pack (sx != sy) 0x7F800000 ∧ fmul b a = f32Pack (sx != sy) 0x7F800000) ∧
    fdiv a b = f32Pack (sx != sy) 0x7F800000 ∧ fdiv b a = f32Pack (sx != sy) 0 ∧
    flt a b = sx ∧ fle a b = sx ∧ flt b a = !sx ∧ fle b a = !sx) ∧
  (∀ a b : F32, f32IsInf a = true → f32IsInf b = true →
    let sx := f32Sign a
    let sy := f32Sign b
    (sx = sy → fadd a b = f32Pack sx 0x7F800000 ∧ fsub a b = 0x7FC00000#32) ∧
    (sx ≠ sy → fadd a b = 0x7FC00000#32 ∧ fsub a b = f32Pack sx 0x7F800000) ∧
    fmul a b = f32Pack (sx != sy) 0x7F800000 ∧ fdiv a b = 0x7FC00000#32 ∧
    flt a b = (sx && !sy) ∧ fle a b = (sx || !sy))

/-- No operation loses, reorders, repeats or alters an output frame: the frames delivered and the frame
waiting grow by one exactly when FRAME accepts one, at the end, with its LAST bit (20_memory R115); the same of
every step, except that the reset event drops the frame waiting in OUT (70_reset R484) and keeps the record of
those delivered (log 14). Which agent moves is the model's form of the schedule (logs 1 and 3). -/
def Obligations.OutputFramesAreLostOnlyByReset : Prop :=
  (∀ (i : Instr) (s t : State), exec i s = .next t →
    (∃ (last : Bool) (d1 d0 y1 y0 : F32), i = .frame last d1 d0 ∧ s.ctrl.run = true ∧ s.out.full = false ∧
      outputFrames t = outputFrames s ++ [BitVec.ofBool last ++ y1 ++ y0]) ∨
    ((∀ last d1 d0, i = .frame last d1 d0 → s.ctrl.run = false ∨ s.out.full = true) ∧
      outputFrames t = outputFrames s)) ∧
  (∀ s t : State, step s = .next t →
    let turn := s.turns.head?.getD (Config.freeTurn s.free)
    let accepts := turn = .audioSrc ∧ s.srcQ ≠ [] ∧ s.ctrl.run = true ∧ s.out.full = false
    (turn = .reset → outputFrames t = s.taken) ∧
    (accepts → ∃ (f : FrameBits) (y1 y0 : F32), s.srcQ.head? = some f ∧
      outputFrames t = outputFrames s ++ [BitVec.ofBool (f.getLsbD 64) ++ y1 ++ y0]) ∧
    (turn ≠ .reset → ¬ accepts → outputFrames t = outputFrames s))

/-! ## The FIFOs -/

/-- 41_fifo R277, R278: a view takes the pointer's Gray code, and then shows the true occupancy. -/
def Obligations.SynchronisersCopyThePointers : Prop :=
  ∀ (s : State) (c : Ch),
    let k := getCh s c
    exec (.syncW2R c) s = .next (setCh s c { k with fa := { k.fa with wsync := gray k.fa.wr } }) ∧
    exec (.syncR2W c) s = .next (setCh s c { k with fa := { k.fa with rsync := gray k.fa.rd } }) ∧
    levelR { k.fa with wsync := gray k.fa.wr } = trueLevelA k.fa ∧
    levelW { k.fa with rsync := gray k.fa.rd } = trueLevelA k.fa

/-- 41_fifo R272. -/
def Obligations.GrayCodesDifferInOneBit : Prop :=
  (∀ b : Ptr, gray b = b ^^^ (b >>> 1)) ∧
  (∀ g : Ptr, (gray2bin g).getLsbD 5 = g.getLsbD 5 ∧
    ∀ i : Fin 5, (gray2bin g).getLsbD i = ((gray2bin g).getLsbD (i + 1) ^^ g.getLsbD i)) ∧
  (∀ b : Ptr, gray2bin (gray b) = b ∧ gray (gray2bin b) = b) ∧
  (∀ b : Ptr, ∃ i : Fin 6, gray b ^^^ gray (b + 1) = 1#6 <<< i.val) ∧
  gray 30#6 = 0x11#6 ∧ gray 31#6 = 0x10#6 ∧ gray 63#6 = 0x20#6 ∧ gray2bin 0x11#6 = 30#6

/-- A FIFO is a bounded queue of whole snapshots: a push appends or, at capacity as the producer sees it,
is dropped and changes nothing; a pull removes the oldest or, when empty as the consumer sees it,
returns none (20_memory R114, 41_fifo R274, R275). -/
def Obligations.FifosAreBoundedQueues : Prop :=
  (∀ (f : FifoB) (v : Spectrum), FifoBOk f →
    ((contentsB f).length = 30 → pushB f v = (false, f)) ∧
    ((contentsB f).length < 30 → ∃ f', pushB f v = (true, f') ∧ contentsB f' = contentsB f ++ [v]) ∧
    (contentsB f = [] → pullB f = none) ∧
    (∀ u us, contentsB f = u :: us → ∃ f', pullB f = some (u, f') ∧ contentsB f' = us)) ∧
  (∀ (f : FifoA) (v : List F32), FifoAOk f →
    (levelW f = 30 → pushA f v = (false, f)) ∧
    (levelW f < 30 → ∃ f', pushA f v = (true, f') ∧ contentsA f' = contentsA f ++ [v]) ∧
    (levelR f = 0 → pullA f = none) ∧
    (0 < levelR f → ∃ u us f', contentsA f = u :: us ∧ pullA f = some (u, f') ∧ contentsA f' = us))

/-- 41_fifo R287, on FIFO-B and on FIFO-A with its synchronisers settled after each operation: K <= 30
snapshots pushed into an empty FIFO come back in order, and a further pull returns none; a push into a FIFO
with 30 unread snapshots returns false and leaves it unchanged. -/
def Obligations.FifoRoundTrip : Prop :=
  (∀ (vs : List Spectrum) (f : FifoB), f.wr = f.rd → vs.length ≤ 30 →
    (pullAllB (vs.length + 1) (pushAllB vs f)).1 = vs.map some ++ [none]) ∧
  (∀ (vs : List (List F32)) (f : FifoA), f.wr = f.rd → vs.length ≤ 30 →
    (pullAllA (vs.length + 1) (pushAllA vs (settle f))).1 = vs.map some ++ [none]) ∧
  (∀ (v : Spectrum) (f : FifoB), (contentsB f).length = 30 → pushB f v = (false, f)) ∧
  (∀ (v : List F32) (f : FifoA), (contentsA f).length = 30 → pushA (settle f) v = (false, settle f))

/-! ## The collector -/

/-- 42_collector R321. -/
def Obligations.IngestCompletesBlocks : Prop :=
  ∀ (s : State) (c : Ch) (v : F32),
    let k := getCh s c
    let len := s.llive.toNat
    (k.acnt + 1 ≠ len → exec (.ingest c v) s = .next (setCh s c
      { k with acc := memWrite k.acc k.acnt v, acnt := k.acnt + 1 })) ∧
    (k.acnt + 1 = len → 30 ≤ levelW k.fa → exec (.ingest c v) s = .next (setCh s c
      { k with acc := memWrite k.acc k.acnt v, acnt := 0 })) ∧
    (k.acnt + 1 = len → levelW k.fa < 30 → exec (.ingest c v) s = .next (setCh s c
      { k with
        acc := memWrite k.acc k.acnt v
        acnt := 0
        fa := { k.fa with
          slot := k.fa.slot.set (k.fa.wr.toNat % 32)
            ((List.range len).map (memRead (memWrite k.acc k.acnt v))) (Nat.mod_lt _ (by decide))
          wr := k.fa.wr + 1 } }))

/-- 42_collector R325 and what the blocks hold: a stream fed to a collector that starts empty leaves
`m mod L` samples waiting and, while FIFO-A has room, appends the stream's whole blocks of L samples in
order. -/
def Obligations.CollectorCutsTheStreamIntoBlocks : Prop :=
  ∀ (len : Nat) (vs : List F32) (k : Chan), 1 ≤ len → k.acnt = 0 → memWf k.acc = true → FifoAOk k.fa →
    (ingestAll len vs k).acnt = vs.length % len ∧
    (levelW k.fa + vs.length / len ≤ 30 →
      contentsA (ingestAll len vs k).fa = contentsA k.fa ++ blocks len vs)

/-! ## The spectrum engine -/

/-- 43_spectrum R344 to R346: the engine step, the frame it computes and what a bin of it is. -/
def Obligations.FftStepPullsOneBlock : Prop :=
  (∀ (size : Nat) (half : F32),
    (size, half) ∈ [(2048, 0x44800000#32), (4096, 0x45000000#32), (8192, 0x45800000#32)] →
    ∀ (h : List F32) (hlen : h.length = size) (f : F32),
      let w := List.ofFn fun i : Fin size => fmul (h[i.val]'(by omega)) (win size i)
      spectrum h size f =
        ⟨BitVec.ofNat 13 (size / 2), List.ofFn fun k : Fin (size / 2) => dbconv (fdiv (fftMag size w k) half) f⟩) ∧
  (∀ m f : F32,
    (f32IsNaN m = true ∨ fle m 0x00000000#32 = true → dbconv m f = f) ∧
    (f32IsNaN m = false → fle m 0x00000000#32 = false →
      (f32IsNaN (db20 m) = true ∨ flt (db20 m) f = true → dbconv m f = f) ∧
      (f32IsNaN (db20 m) = false → flt (db20 m) f = false → dbconv m f = db20 m))) ∧
  ∀ (s : State) (c : Ch),
    let k := getCh s c
    let size := 2 ^ s.fftOrder.toNat
    let b := k.fa.slot[k.fa.rd.toNat % 32]'(Nat.mod_lt _ (by decide))
    let h := (k.hist ++ b).drop ((k.hist ++ b).length - size)
    let n := min size (k.hcnt.toNat + b.length)
    let k' : Chan := { k with fa := { k.fa with rd := k.fa.rd + 1 }, hist := h, hcnt := BitVec.ofNat 14 n }
    s.ctrl.fftEn = true → 0 < levelR k.fa → orderLegal s.fftOrder = true →
      (n < size → exec (.fftStep c) s = .next (setCh s c k')) ∧
      (n = size → levelB k.fb = 30 → exec (.fftStep c) s = .next (setCh s c k')) ∧
      (n = size → levelB k.fb < 30 → exec (.fftStep c) s = .next (setCh s c
        { k' with fb := { k.fb with
            slot := k.fb.slot.set (k.fb.wr.toNat % 32) (spectrum h size s.floor) (Nat.mod_lt _ (by decide))
            wr := k.fb.wr + 1 } }))

/-- 43_spectrum R352: a frame computed over a history of zeros has F/2 bins, each the floor, and a step of
the engine that computes one puts it into FIFO-B. -/
def Obligations.SilenceGivesTheFloor : Prop :=
  (∀ (h : List F32) (f : F32) (size : Nat), size = 2048 ∨ size = 4096 ∨ size = 8192 → h.length = size →
    (∀ x ∈ h, x = 0x00000000#32 ∨ x = 0x80000000#32) →
    spectrum h size f = ⟨BitVec.ofNat 13 (size / 2), List.replicate (size / 2) f⟩) ∧
  (∀ (s : State) (c : Ch) (b : List F32), RegistersOk s → LevelsOk s → s.ctrl.fftEn = true →
    0 < levelR (getCh s c).fa → levelB (getCh s c).fb < 30 →
    (contentsA (getCh s c).fa).head? = some b →
    fftSize s.fftOrder ≤ (getCh s c).hcnt.toNat + b.length →
    (∀ x ∈ lastN (fftSize s.fftOrder) ((getCh s c).hist ++ b), x = 0x00000000#32 ∨ x = 0x80000000#32) →
    ∃ t, exec (.fftStep c) s = .next t ∧
      contentsB (getCh t c).fb = contentsB (getCh s c).fb ++
        [⟨BitVec.ofNat 13 (fftSize s.fftOrder / 2), List.replicate (fftSize s.fftOrder / 2) s.floor⟩])

/-- 43_spectrum R353: with a finite floor, no bin of a frame is a NaN or lies below the floor. -/
def Obligations.NoBinIsNaNOrBelowTheFloor : Prop :=
  ∀ (h : List F32) (size : Nat) (f : F32), f32IsFinite f = true →
    ∀ d ∈ (spectrum h size f).data, f32IsNaN d = false ∧ fle f d = true

/-- The properties the spec requires of WIN_F, FFTMAG_F (FFT-P1 to FFT-P4, with FFT_TOL) and DB20 (DB-P1,
DB-P2, DB-P4) hold of the model's parameters (43_spectrum R341 to R343; logs 5 and 6). -/
def Obligations.ParametersHaveRequiredProperties : Prop :=
  (∀ size i, f32IsFinite (win size i) = true) ∧
  (∀ size ∈ [2048, 4096, 8192], ∀ w : List F32, w.length = size → ∀ k < size / 2,
    ((∀ x ∈ w, x = 0x00000000#32 ∨ x = 0x80000000#32) → fftMag size w k = 0x00000000#32) ∧
    (f32IsNaN (fftMag size w k) = true ∨ (fftMag size w k).getLsbD 31 = false) ∧
    ((∀ x ∈ w, f32IsFinite x = true) → f32IsNaN (fftMag size w k) = false)) ∧
  Config.FftAccurate fftTol fftMag ∧
  db20 0x3F800000#32 = 0x00000000#32 ∧
  (∀ m1 m2 : F32, f32Pos m1 = true → f32Pos m2 = true → fle m1 m2 = true →
    fle (db20 m1) (db20 m2) = true) ∧
  db20 0x7F800000#32 = 0x7F800000#32

/-- DB-P3, and the bound on DB_TOL (43_spectrum R343; log 5). -/
def Obligations.DecibelsAreWithinTolerance : Prop := DbAccurate dbTol ∧ dbTol ≤ 1 / 100

/-! ## Invariants -/

/-- The memories keep their canonical form, the model's own (log 8): equal contents stay equal data. -/
def Obligations.MemoriesStayCanonical : Prop :=
  ∀ s t : State, MemoriesCanonical s → step s = .next t → MemoriesCanonical t

/-- 41_fifo R286: the views of every FIFO-A stay on their sides of the true occupancy, and no FIFO holds
more than N snapshots. -/
def Obligations.FifoLevelsStayInOrder : Prop :=
  ∀ s t : State, LevelsOk s → step s = .next t → LevelsOk t

/-- PEND_A implies PEND_C (10_state R59); FFT_ORDER, ACC_LEN, LLIVE and FLOOR stay legal; each count
stays in its range and each history has exactly F samples (10_state R42 to R45, R61, R64). -/
def Obligations.RegistersStayLegal : Prop :=
  ∀ s t : State, RegistersOk s → step s = .next t → RegistersOk t

/-- Every unread snapshot keeps its size, and OUTBUF_INFO its form (10_state R50, R62, R63, R65). -/
def Obligations.SnapshotsKeepTheirSizes : Prop :=
  ∀ s t : State, LevelsOk s → RegistersOk s → SnapshotsOk s → step s = .next t → SnapshotsOk t

/-- The reset state meets every invariant, and nothing internal is enabled in it. -/
def Obligations.ResetMeetsTheInvariants : Prop :=
  MemoriesCanonical State.reset ∧ LevelsOk State.reset ∧ RegistersOk State.reset ∧
  SnapshotsOk State.reset ∧ Quiescent State.reset

/-- From any state in which the FIFO views are in order, internal steps alone come to an end: some measure
of the state falls with every enabled internal step (70_reset R495). -/
def Obligations.InternalStepsComeToAnEnd : Prop :=
  ∃ measure : State → Nat, ∀ (s t : State) (i : Instr), LevelsOk s → internalEnabled s i = true →
    exec i s = .next t → measure t < measure s

/-- 70_reset R495: what quiescence means for the views, the handshake and FIFO-A. -/
def Obligations.QuiescentStatesAreSettled : Prop :=
  ∀ s : State, LevelsOk s → Quiescent s →
    (∀ c, (getCh s c).fa.wsync = gray (getCh s c).fa.wr ∧ (getCh s c).fa.rsync = gray (getCh s c).fa.rd) ∧
    (s.pendC = false ∨ s.pendA = true ∧ s.atb = false) ∧
    (s.ctrl.fftEn = false ∨ ∀ c, contentsA (getCh s c).fa = [])

/-! ## Reset -/

/-- 70_reset R482: PREPARE from the reset state leaves the reset state, but for its own report; and the
reset chain passes a frame through unchanged. -/
def Obligations.ResetIsPrepared : Prop :=
  exec .prepare State.reset = .next { State.reset with
    res := ⟨1#2, 0x02#8, 0#8⟩, resp := some ⟨false, none⟩ } ∧
  (∀ (st : Vector Delay 9) (x : F32), chain State.reset.lv st x = (x, st))

/-- The values of 70_reset R481, as the registers read them. -/
def Obligations.ResetValuesReadBack : Prop :=
  let reads := fun (r : Reg) (v : Word) =>
    exec (readRow r) State.reset = .next { State.reset with resp := some ⟨false, some v⟩ }
  reads .id 0x53455101#32 ∧ reads .params 0x02BD1E42#32 ∧ reads .cmd 0x00000000#32 ∧
  reads .ctrl 0x00000000#32 ∧ reads .chainCfg 0x00000007#32 ∧ reads .chainLive 0x00000007#32 ∧
  reads .status 0x00000000#32 ∧ reads .cmdResult 0x00000000#32 ∧ reads .fftCfg 0x0000000B#32 ∧
  reads .accLen 0x00000800#32 ∧ reads .accLenLive 0x00000800#32 ∧ reads .silenceFloor 0xC2400000#32 ∧
  reads .errInfo 0x00000000#32 ∧
  (∀ c, reads (.fifoaLevel c) 0#32 ∧ reads (.fifobLevel c) 0#32 ∧ reads (.fifoaPtr c) 0#32 ∧
    reads (.fifobPtr c) 0#32 ∧ reads (.outbufInfo c) 0#32 ∧ reads (.histCnt c) 0#32) ∧
  (∀ (i : Sec) (k : Tap), reads (.coef i k) (if k = .b0 then 0x3F800000#32 else 0#32) ∧
    reads (.coefLive i k) (if k = .b0 then 0x3F800000#32 else 0#32)) ∧
  (∀ c j, reads (.outbuf c j) 0#32)
end

