-- ==== Sys2Proof/Laws/State.lean ====
section
/-!
SUPPORT. The fields of a state after each named update, and of the smaller records.
-/

namespace Sys2Proof.Machine

/-! ## respond -/

@[simp] theorem respond_lv (v : Word) (s : State) : (respond v s).lv = s.lv := rfl
@[simp] theorem respond_sh (v : Word) (s : State) : (respond v s).sh = s.sh := rfl
@[simp] theorem respond_atb (v : Word) (s : State) : (respond v s).atb = s.atb := rfl
@[simp] theorem respond_pendA (v : Word) (s : State) : (respond v s).pendA = s.pendA := rfl
@[simp] theorem respond_pendC (v : Word) (s : State) : (respond v s).pendC = s.pendC := rfl
@[simp] theorem respond_out (v : Word) (s : State) : (respond v s).out = s.out := rfl
@[simp] theorem respond_ctrl (v : Word) (s : State) : (respond v s).ctrl = s.ctrl := rfl
@[simp] theorem respond_fftOrder (v : Word) (s : State) : (respond v s).fftOrder = s.fftOrder := rfl
@[simp] theorem respond_accLen (v : Word) (s : State) : (respond v s).accLen = s.accLen := rfl
@[simp] theorem respond_llive (v : Word) (s : State) : (respond v s).llive = s.llive := rfl
@[simp] theorem respond_floor (v : Word) (s : State) : (respond v s).floor = s.floor := rfl
@[simp] theorem respond_busErr (v : Word) (s : State) : (respond v s).busErr = s.busErr := rfl
@[simp] theorem respond_cfgErr (v : Word) (s : State) : (respond v s).cfgErr = s.cfgErr := rfl
@[simp] theorem respond_err (v : Word) (s : State) : (respond v s).err = s.err := rfl
@[simp] theorem respond_res (v : Word) (s : State) : (respond v s).res = s.res := rfl
@[simp] theorem respond_ch (v : Word) (s : State) : (respond v s).ch = s.ch := rfl
@[simp] theorem respond_resp (v : Word) (s : State) : (respond v s).resp = some ⟨false, some v⟩ := rfl
@[simp] theorem respond_taken (v : Word) (s : State) : (respond v s).taken = s.taken := rfl
@[simp] theorem respond_turns (v : Word) (s : State) : (respond v s).turns = s.turns := rfl
@[simp] theorem respond_busQ (v : Word) (s : State) : (respond v s).busQ = s.busQ := rfl
@[simp] theorem respond_srcQ (v : Word) (s : State) : (respond v s).srcQ = s.srcQ := rfl
@[simp] theorem respond_free (v : Word) (s : State) : (respond v s).free = s.free := rfl

/-! ## ackWrite -/

@[simp] theorem ackWrite_lv (s : State) : (ackWrite s).lv = s.lv := rfl
@[simp] theorem ackWrite_sh (s : State) : (ackWrite s).sh = s.sh := rfl
@[simp] theorem ackWrite_atb (s : State) : (ackWrite s).atb = s.atb := rfl
@[simp] theorem ackWrite_pendA (s : State) : (ackWrite s).pendA = s.pendA := rfl
@[simp] theorem ackWrite_pendC (s : State) : (ackWrite s).pendC = s.pendC := rfl
@[simp] theorem ackWrite_out (s : State) : (ackWrite s).out = s.out := rfl
@[simp] theorem ackWrite_ctrl (s : State) : (ackWrite s).ctrl = s.ctrl := rfl
@[simp] theorem ackWrite_fftOrder (s : State) : (ackWrite s).fftOrder = s.fftOrder := rfl
@[simp] theorem ackWrite_accLen (s : State) : (ackWrite s).accLen = s.accLen := rfl
@[simp] theorem ackWrite_llive (s : State) : (ackWrite s).llive = s.llive := rfl
@[simp] theorem ackWrite_floor (s : State) : (ackWrite s).floor = s.floor := rfl
@[simp] theorem ackWrite_busErr (s : State) : (ackWrite s).busErr = s.busErr := rfl
@[simp] theorem ackWrite_cfgErr (s : State) : (ackWrite s).cfgErr = s.cfgErr := rfl
@[simp] theorem ackWrite_err (s : State) : (ackWrite s).err = s.err := rfl
@[simp] theorem ackWrite_res (s : State) : (ackWrite s).res = s.res := rfl
@[simp] theorem ackWrite_ch (s : State) : (ackWrite s).ch = s.ch := rfl
@[simp] theorem ackWrite_resp (s : State) : (ackWrite s).resp = some ⟨false, none⟩ := rfl
@[simp] theorem ackWrite_taken (s : State) : (ackWrite s).taken = s.taken := rfl
@[simp] theorem ackWrite_turns (s : State) : (ackWrite s).turns = s.turns := rfl
@[simp] theorem ackWrite_busQ (s : State) : (ackWrite s).busQ = s.busQ := rfl
@[simp] theorem ackWrite_srcQ (s : State) : (ackWrite s).srcQ = s.srcQ := rfl
@[simp] theorem ackWrite_free (s : State) : (ackWrite s).free = s.free := rfl

/-! ## finishCmd -/

@[simp] theorem finishCmd_lv (c : BitVec 2) (o n : BitVec 8) (s : State) : (finishCmd c o n s).lv = s.lv := rfl
@[simp] theorem finishCmd_sh (c : BitVec 2) (o n : BitVec 8) (s : State) : (finishCmd c o n s).sh = s.sh := rfl
@[simp] theorem finishCmd_atb (c : BitVec 2) (o n : BitVec 8) (s : State) : (finishCmd c o n s).atb = s.atb := rfl
@[simp] theorem finishCmd_pendA (c : BitVec 2) (o n : BitVec 8) (s : State) : (finishCmd c o n s).pendA = s.pendA := rfl
@[simp] theorem finishCmd_pendC (c : BitVec 2) (o n : BitVec 8) (s : State) : (finishCmd c o n s).pendC = s.pendC := rfl
@[simp] theorem finishCmd_out (c : BitVec 2) (o n : BitVec 8) (s : State) : (finishCmd c o n s).out = s.out := rfl
@[simp] theorem finishCmd_ctrl (c : BitVec 2) (o n : BitVec 8) (s : State) : (finishCmd c o n s).ctrl = s.ctrl := rfl
@[simp] theorem finishCmd_fftOrder (c : BitVec 2) (o n : BitVec 8) (s : State) : (finishCmd c o n s).fftOrder = s.fftOrder := rfl
@[simp] theorem finishCmd_accLen (c : BitVec 2) (o n : BitVec 8) (s : State) : (finishCmd c o n s).accLen = s.accLen := rfl
@[simp] theorem finishCmd_llive (c : BitVec 2) (o n : BitVec 8) (s : State) : (finishCmd c o n s).llive = s.llive := rfl
@[simp] theorem finishCmd_floor (c : BitVec 2) (o n : BitVec 8) (s : State) : (finishCmd c o n s).floor = s.floor := rfl
@[simp] theorem finishCmd_busErr (c : BitVec 2) (o n : BitVec 8) (s : State) : (finishCmd c o n s).busErr = s.busErr := rfl
@[simp] theorem finishCmd_cfgErr (c : BitVec 2) (o n : BitVec 8) (s : State) : (finishCmd c o n s).cfgErr = s.cfgErr := rfl
@[simp] theorem finishCmd_err (c : BitVec 2) (o n : BitVec 8) (s : State) : (finishCmd c o n s).err = s.err := rfl
@[simp] theorem finishCmd_res (c : BitVec 2) (o n : BitVec 8) (s : State) : (finishCmd c o n s).res = ⟨c, o, n⟩ := rfl
@[simp] theorem finishCmd_ch (c : BitVec 2) (o n : BitVec 8) (s : State) : (finishCmd c o n s).ch = s.ch := rfl
@[simp] theorem finishCmd_resp (c : BitVec 2) (o n : BitVec 8) (s : State) : (finishCmd c o n s).resp = some ⟨false, none⟩ := rfl
@[simp] theorem finishCmd_taken (c : BitVec 2) (o n : BitVec 8) (s : State) : (finishCmd c o n s).taken = s.taken := rfl
@[simp] theorem finishCmd_turns (c : BitVec 2) (o n : BitVec 8) (s : State) : (finishCmd c o n s).turns = s.turns := rfl
@[simp] theorem finishCmd_busQ (c : BitVec 2) (o n : BitVec 8) (s : State) : (finishCmd c o n s).busQ = s.busQ := rfl
@[simp] theorem finishCmd_srcQ (c : BitVec 2) (o n : BitVec 8) (s : State) : (finishCmd c o n s).srcQ = s.srcQ := rfl
@[simp] theorem finishCmd_free (c : BitVec 2) (o n : BitVec 8) (s : State) : (finishCmd c o n s).free = s.free := rfl

/-! ## setCh -/

@[simp] theorem setCh_lv (s : State) (c : Ch) (x : Chan) : (setCh s c x).lv = s.lv := rfl
@[simp] theorem setCh_sh (s : State) (c : Ch) (x : Chan) : (setCh s c x).sh = s.sh := rfl
@[simp] theorem setCh_atb (s : State) (c : Ch) (x : Chan) : (setCh s c x).atb = s.atb := rfl
@[simp] theorem setCh_pendA (s : State) (c : Ch) (x : Chan) : (setCh s c x).pendA = s.pendA := rfl
@[simp] theorem setCh_pendC (s : State) (c : Ch) (x : Chan) : (setCh s c x).pendC = s.pendC := rfl
@[simp] theorem setCh_out (s : State) (c : Ch) (x : Chan) : (setCh s c x).out = s.out := rfl
@[simp] theorem setCh_ctrl (s : State) (c : Ch) (x : Chan) : (setCh s c x).ctrl = s.ctrl := rfl
@[simp] theorem setCh_fftOrder (s : State) (c : Ch) (x : Chan) : (setCh s c x).fftOrder = s.fftOrder := rfl
@[simp] theorem setCh_accLen (s : State) (c : Ch) (x : Chan) : (setCh s c x).accLen = s.accLen := rfl
@[simp] theorem setCh_llive (s : State) (c : Ch) (x : Chan) : (setCh s c x).llive = s.llive := rfl
@[simp] theorem setCh_floor (s : State) (c : Ch) (x : Chan) : (setCh s c x).floor = s.floor := rfl
@[simp] theorem setCh_busErr (s : State) (c : Ch) (x : Chan) : (setCh s c x).busErr = s.busErr := rfl
@[simp] theorem setCh_cfgErr (s : State) (c : Ch) (x : Chan) : (setCh s c x).cfgErr = s.cfgErr := rfl
@[simp] theorem setCh_err (s : State) (c : Ch) (x : Chan) : (setCh s c x).err = s.err := rfl
@[simp] theorem setCh_res (s : State) (c : Ch) (x : Chan) : (setCh s c x).res = s.res := rfl
@[simp] theorem setCh_ch (s : State) (c : Ch) (x : Chan) : (setCh s c x).ch = s.ch.set c x := rfl
@[simp] theorem setCh_resp (s : State) (c : Ch) (x : Chan) : (setCh s c x).resp = s.resp := rfl
@[simp] theorem setCh_taken (s : State) (c : Ch) (x : Chan) : (setCh s c x).taken = s.taken := rfl
@[simp] theorem setCh_turns (s : State) (c : Ch) (x : Chan) : (setCh s c x).turns = s.turns := rfl
@[simp] theorem setCh_busQ (s : State) (c : Ch) (x : Chan) : (setCh s c x).busQ = s.busQ := rfl
@[simp] theorem setCh_srcQ (s : State) (c : Ch) (x : Chan) : (setCh s c x).srcQ = s.srcQ := rfl
@[simp] theorem setCh_free (s : State) (c : Ch) (x : Chan) : (setCh s c x).free = s.free := rfl

/-! ## mapCh -/

@[simp] theorem mapCh_lv (f : Chan → Chan) (s : State) : (mapCh f s).lv = s.lv := rfl
@[simp] theorem mapCh_sh (f : Chan → Chan) (s : State) : (mapCh f s).sh = s.sh := rfl
@[simp] theorem mapCh_atb (f : Chan → Chan) (s : State) : (mapCh f s).atb = s.atb := rfl
@[simp] theorem mapCh_pendA (f : Chan → Chan) (s : State) : (mapCh f s).pendA = s.pendA := rfl
@[simp] theorem mapCh_pendC (f : Chan → Chan) (s : State) : (mapCh f s).pendC = s.pendC := rfl
@[simp] theorem mapCh_out (f : Chan → Chan) (s : State) : (mapCh f s).out = s.out := rfl
@[simp] theorem mapCh_ctrl (f : Chan → Chan) (s : State) : (mapCh f s).ctrl = s.ctrl := rfl
@[simp] theorem mapCh_fftOrder (f : Chan → Chan) (s : State) : (mapCh f s).fftOrder = s.fftOrder := rfl
@[simp] theorem mapCh_accLen (f : Chan → Chan) (s : State) : (mapCh f s).accLen = s.accLen := rfl
@[simp] theorem mapCh_llive (f : Chan → Chan) (s : State) : (mapCh f s).llive = s.llive := rfl
@[simp] theorem mapCh_floor (f : Chan → Chan) (s : State) : (mapCh f s).floor = s.floor := rfl
@[simp] theorem mapCh_busErr (f : Chan → Chan) (s : State) : (mapCh f s).busErr = s.busErr := rfl
@[simp] theorem mapCh_cfgErr (f : Chan → Chan) (s : State) : (mapCh f s).cfgErr = s.cfgErr := rfl
@[simp] theorem mapCh_err (f : Chan → Chan) (s : State) : (mapCh f s).err = s.err := rfl
@[simp] theorem mapCh_res (f : Chan → Chan) (s : State) : (mapCh f s).res = s.res := rfl
@[simp] theorem mapCh_ch (f : Chan → Chan) (s : State) : (mapCh f s).ch = ⟨f s.ch.left, f s.ch.right⟩ := rfl
@[simp] theorem mapCh_resp (f : Chan → Chan) (s : State) : (mapCh f s).resp = s.resp := rfl
@[simp] theorem mapCh_taken (f : Chan → Chan) (s : State) : (mapCh f s).taken = s.taken := rfl
@[simp] theorem mapCh_turns (f : Chan → Chan) (s : State) : (mapCh f s).turns = s.turns := rfl
@[simp] theorem mapCh_busQ (f : Chan → Chan) (s : State) : (mapCh f s).busQ = s.busQ := rfl
@[simp] theorem mapCh_srcQ (f : Chan → Chan) (s : State) : (mapCh f s).srcQ = s.srcQ := rfl
@[simp] theorem mapCh_free (f : Chan → Chan) (s : State) : (mapCh f s).free = s.free := rfl

/-! ## install -/

@[simp] theorem install_lv (s : State) : (install s).lv = s.sh := rfl
@[simp] theorem install_sh (s : State) : (install s).sh = s.sh := rfl
@[simp] theorem install_atb (s : State) : (install s).atb = s.atb := rfl
@[simp] theorem install_pendA (s : State) : (install s).pendA = false := rfl
@[simp] theorem install_pendC (s : State) : (install s).pendC = s.pendC := rfl
@[simp] theorem install_out (s : State) : (install s).out = s.out := rfl
@[simp] theorem install_ctrl (s : State) : (install s).ctrl = s.ctrl := rfl
@[simp] theorem install_fftOrder (s : State) : (install s).fftOrder = s.fftOrder := rfl
@[simp] theorem install_accLen (s : State) : (install s).accLen = s.accLen := rfl
@[simp] theorem install_llive (s : State) : (install s).llive = s.llive := rfl
@[simp] theorem install_floor (s : State) : (install s).floor = s.floor := rfl
@[simp] theorem install_busErr (s : State) : (install s).busErr = s.busErr := rfl
@[simp] theorem install_cfgErr (s : State) : (install s).cfgErr = s.cfgErr := rfl
@[simp] theorem install_err (s : State) : (install s).err = s.err := rfl
@[simp] theorem install_res (s : State) : (install s).res = s.res := rfl
@[simp] theorem install_ch (s : State) : (install s).ch = s.ch := rfl
@[simp] theorem install_resp (s : State) : (install s).resp = s.resp := rfl
@[simp] theorem install_taken (s : State) : (install s).taken = s.taken := rfl
@[simp] theorem install_turns (s : State) : (install s).turns = s.turns := rfl
@[simp] theorem install_busQ (s : State) : (install s).busQ = s.busQ := rfl
@[simp] theorem install_srcQ (s : State) : (install s).srcQ = s.srcQ := rfl
@[simp] theorem install_free (s : State) : (install s).free = s.free := rfl

/-! ## raise -/

@[simp] theorem raise_lv (acc : Access) (c : ErrCode) (a : Addr) (s : State) : (raise acc c a s).lv = s.lv := rfl
@[simp] theorem raise_sh (acc : Access) (c : ErrCode) (a : Addr) (s : State) : (raise acc c a s).sh = s.sh := rfl
@[simp] theorem raise_atb (acc : Access) (c : ErrCode) (a : Addr) (s : State) : (raise acc c a s).atb = s.atb := rfl
@[simp] theorem raise_pendA (acc : Access) (c : ErrCode) (a : Addr) (s : State) : (raise acc c a s).pendA = s.pendA := rfl
@[simp] theorem raise_pendC (acc : Access) (c : ErrCode) (a : Addr) (s : State) : (raise acc c a s).pendC = s.pendC := rfl
@[simp] theorem raise_out (acc : Access) (c : ErrCode) (a : Addr) (s : State) : (raise acc c a s).out = s.out := rfl
@[simp] theorem raise_ctrl (acc : Access) (c : ErrCode) (a : Addr) (s : State) : (raise acc c a s).ctrl = s.ctrl := rfl
@[simp] theorem raise_fftOrder (acc : Access) (c : ErrCode) (a : Addr) (s : State) : (raise acc c a s).fftOrder = s.fftOrder := rfl
@[simp] theorem raise_accLen (acc : Access) (c : ErrCode) (a : Addr) (s : State) : (raise acc c a s).accLen = s.accLen := rfl
@[simp] theorem raise_llive (acc : Access) (c : ErrCode) (a : Addr) (s : State) : (raise acc c a s).llive = s.llive := rfl
@[simp] theorem raise_floor (acc : Access) (c : ErrCode) (a : Addr) (s : State) : (raise acc c a s).floor = s.floor := rfl
@[simp] theorem raise_busErr (acc : Access) (c : ErrCode) (a : Addr) (s : State) : (raise acc c a s).busErr = stickyBus c s := rfl
@[simp] theorem raise_cfgErr (acc : Access) (c : ErrCode) (a : Addr) (s : State) : (raise acc c a s).cfgErr = stickyCfg c s := rfl
@[simp] theorem raise_err (acc : Access) (c : ErrCode) (a : Addr) (s : State) : (raise acc c a s).err = errAfter c a s := rfl
@[simp] theorem raise_res (acc : Access) (c : ErrCode) (a : Addr) (s : State) : (raise acc c a s).res = resAfter acc c a s := rfl
@[simp] theorem raise_ch (acc : Access) (c : ErrCode) (a : Addr) (s : State) : (raise acc c a s).ch = s.ch := rfl
@[simp] theorem raise_resp (acc : Access) (c : ErrCode) (a : Addr) (s : State) : (raise acc c a s).resp = some ⟨true, errData acc⟩ := rfl
@[simp] theorem raise_taken (acc : Access) (c : ErrCode) (a : Addr) (s : State) : (raise acc c a s).taken = s.taken := rfl
@[simp] theorem raise_turns (acc : Access) (c : ErrCode) (a : Addr) (s : State) : (raise acc c a s).turns = s.turns := rfl
@[simp] theorem raise_busQ (acc : Access) (c : ErrCode) (a : Addr) (s : State) : (raise acc c a s).busQ = s.busQ := rfl
@[simp] theorem raise_srcQ (acc : Access) (c : ErrCode) (a : Addr) (s : State) : (raise acc c a s).srcQ = s.srcQ := rfl
@[simp] theorem raise_free (acc : Access) (c : ErrCode) (a : Addr) (s : State) : (raise acc c a s).free = s.free := rfl

/-! ## resetBlock -/

@[simp] theorem resetBlock_lv (s : State) : (resetBlock s).lv = State.reset.lv := rfl
@[simp] theorem resetBlock_sh (s : State) : (resetBlock s).sh = State.reset.sh := rfl
@[simp] theorem resetBlock_atb (s : State) : (resetBlock s).atb = State.reset.atb := rfl
@[simp] theorem resetBlock_pendA (s : State) : (resetBlock s).pendA = State.reset.pendA := rfl
@[simp] theorem resetBlock_pendC (s : State) : (resetBlock s).pendC = State.reset.pendC := rfl
@[simp] theorem resetBlock_out (s : State) : (resetBlock s).out = State.reset.out := rfl
@[simp] theorem resetBlock_ctrl (s : State) : (resetBlock s).ctrl = State.reset.ctrl := rfl
@[simp] theorem resetBlock_fftOrder (s : State) : (resetBlock s).fftOrder = State.reset.fftOrder := rfl
@[simp] theorem resetBlock_accLen (s : State) : (resetBlock s).accLen = State.reset.accLen := rfl
@[simp] theorem resetBlock_llive (s : State) : (resetBlock s).llive = State.reset.llive := rfl
@[simp] theorem resetBlock_floor (s : State) : (resetBlock s).floor = State.reset.floor := rfl
@[simp] theorem resetBlock_busErr (s : State) : (resetBlock s).busErr = State.reset.busErr := rfl
@[simp] theorem resetBlock_cfgErr (s : State) : (resetBlock s).cfgErr = State.reset.cfgErr := rfl
@[simp] theorem resetBlock_err (s : State) : (resetBlock s).err = State.reset.err := rfl
@[simp] theorem resetBlock_res (s : State) : (resetBlock s).res = State.reset.res := rfl
@[simp] theorem resetBlock_ch (s : State) : (resetBlock s).ch = State.reset.ch := rfl
@[simp] theorem resetBlock_resp (s : State) : (resetBlock s).resp = State.reset.resp := rfl
@[simp] theorem resetBlock_taken (s : State) : (resetBlock s).taken = s.taken := rfl
@[simp] theorem resetBlock_turns (s : State) : (resetBlock s).turns = s.turns := rfl
@[simp] theorem resetBlock_busQ (s : State) : (resetBlock s).busQ = s.busQ := rfl
@[simp] theorem resetBlock_srcQ (s : State) : (resetBlock s).srcQ = s.srcQ := rfl
@[simp] theorem resetBlock_free (s : State) : (resetBlock s).free = s.free := rfl

/-! ## clearSticky -/

@[simp] theorem clearSticky_lv (v : Word) (s : State) : (clearSticky v s).lv = s.lv := rfl
@[simp] theorem clearSticky_sh (v : Word) (s : State) : (clearSticky v s).sh = s.sh := rfl
@[simp] theorem clearSticky_atb (v : Word) (s : State) : (clearSticky v s).atb = s.atb := rfl
@[simp] theorem clearSticky_pendA (v : Word) (s : State) : (clearSticky v s).pendA = s.pendA := rfl
@[simp] theorem clearSticky_pendC (v : Word) (s : State) : (clearSticky v s).pendC = s.pendC := rfl
@[simp] theorem clearSticky_out (v : Word) (s : State) : (clearSticky v s).out = s.out := rfl
@[simp] theorem clearSticky_ctrl (v : Word) (s : State) : (clearSticky v s).ctrl = s.ctrl := rfl
@[simp] theorem clearSticky_fftOrder (v : Word) (s : State) : (clearSticky v s).fftOrder = s.fftOrder := rfl
@[simp] theorem clearSticky_accLen (v : Word) (s : State) : (clearSticky v s).accLen = s.accLen := rfl
@[simp] theorem clearSticky_llive (v : Word) (s : State) : (clearSticky v s).llive = s.llive := rfl
@[simp] theorem clearSticky_floor (v : Word) (s : State) : (clearSticky v s).floor = s.floor := rfl
@[simp] theorem clearSticky_busErr (v : Word) (s : State) : (clearSticky v s).busErr = (s.busErr && !v.getLsbD 4) := rfl
@[simp] theorem clearSticky_cfgErr (v : Word) (s : State) : (clearSticky v s).cfgErr = (s.cfgErr && !v.getLsbD 5) := rfl
@[simp] theorem clearSticky_err (v : Word) (s : State) : (clearSticky v s).err = s.err := rfl
@[simp] theorem clearSticky_res (v : Word) (s : State) : (clearSticky v s).res = s.res := rfl
@[simp] theorem clearSticky_ch (v : Word) (s : State) : (clearSticky v s).ch = s.ch := rfl
@[simp] theorem clearSticky_resp (v : Word) (s : State) : (clearSticky v s).resp = s.resp := rfl
@[simp] theorem clearSticky_taken (v : Word) (s : State) : (clearSticky v s).taken = s.taken := rfl
@[simp] theorem clearSticky_turns (v : Word) (s : State) : (clearSticky v s).turns = s.turns := rfl
@[simp] theorem clearSticky_busQ (v : Word) (s : State) : (clearSticky v s).busQ = s.busQ := rfl
@[simp] theorem clearSticky_srcQ (v : Word) (s : State) : (clearSticky v s).srcQ = s.srcQ := rfl
@[simp] theorem clearSticky_free (v : Word) (s : State) : (clearSticky v s).free = s.free := rfl

/-! ## Channels -/

@[simp] theorem PerCh_get_set_same {α : Type} (p : PerCh α) (c : Ch) (x : α) : (p.set c x).get c = x := by
  cases c <;> rfl

theorem PerCh_get_set_other {α : Type} (p : PerCh α) {c d : Ch} (x : α) (h : d ≠ c) :
    (p.set c x).get d = p.get d := by
  cases c <;> cases d <;> first | rfl | exact absurd rfl h

@[simp] theorem PerCh_set_get {α : Type} (p : PerCh α) (c : Ch) : p.set c (p.get c) = p := by
  cases c <;> rfl

@[simp] theorem PerCh_set_set {α : Type} (p : PerCh α) (c : Ch) (x y : α) :
    (p.set c x).set c y = p.set c y := by
  cases c <;> rfl

@[simp] theorem getCh_setCh_same (s : State) (c : Ch) (x : Chan) : getCh (setCh s c x) c = x := by
  cases c <;> rfl

theorem getCh_setCh_other (s : State) {c d : Ch} (x : Chan) (h : d ≠ c) :
    getCh (setCh s c x) d = getCh s d :=
  PerCh_get_set_other s.ch x h

@[simp] theorem getCh_mapCh (f : Chan → Chan) (s : State) (c : Ch) :
    getCh (mapCh f s) c = f (getCh s c) := by
  cases c <;> rfl

@[simp] theorem setCh_getCh (s : State) (c : Ch) : setCh s c (getCh s c) = s := by
  cases s; cases c <;> rfl

@[simp] theorem getCh_left (s : State) : getCh s .left = s.ch.left := rfl

@[simp] theorem getCh_right (s : State) : getCh s .right = s.ch.right := rfl

/-! ## Taps -/

@[simp] theorem tapGet_tapSet_same (t : Taps) (k : Tap) (v : F32) : tapGet (tapSet t k v) k = v := by
  cases k <;> rfl

theorem tapGet_tapSet_other (t : Taps) {k j : Tap} (v : F32) (h : j ≠ k) :
    tapGet (tapSet t k v) j = tapGet t j := by
  cases k <;> cases j <;> first | rfl | exact absurd rfl h

end Sys2Proof.Machine
end

