-- ==== Sys2Proof/Laws/Ops.lean ====
section
/-!
SUPPORT. What each shared operation can do, said once: raising an error, the strobe check, the live
read-back, the install of a commit.
-/

namespace Sys2Proof.Machine

@[simp] theorem clearSticky_zero (s : State) : clearSticky 0#32 s = s := by
  cases s; simp [clearSticky]

@[simp] theorem stickyBus_of_bus {c : ErrCode} (h : errIsBus c = true) (s : State) :
    stickyBus c s = true := by simp [stickyBus, h]

@[simp] theorem stickyCfg_of_bus {c : ErrCode} (h : errIsBus c = true) (s : State) :
    stickyCfg c s = s.cfgErr := by simp [stickyCfg, h]

@[simp] theorem stickyBus_of_cfg {c : ErrCode} (h : errIsBus c = false) (s : State) :
    stickyBus c s = s.busErr := by simp [stickyBus, h]

@[simp] theorem stickyCfg_of_cfg {c : ErrCode} (h : errIsBus c = false) (s : State) :
    stickyCfg c s = true := by simp [stickyCfg, h]

/-- Only a refused command changes CMD_RESULT. -/
theorem resAfter_of_not_refusal {c : ErrCode} (h : errIsCmdRefusal c = false) (acc : Access) (a : Addr)
    (s : State) : resAfter acc c a s = s.res := by
  cases acc <;> simp [resAfter, h]

theorem resAfter_other_addr {a : Addr} (h : a ≠ 0x0018#16) (acc : Access) (c : ErrCode) (s : State) :
    resAfter acc c a s = s.res := by
  cases acc <;> simp [resAfter, h]

/-- A write row either performs its write rule or is refused as partial. -/
theorem strobed_cases (a : Addr) (st : Strobes) (v : Word) (body : State → State) (s : State) :
    (st = 0xF#4 ∧ strobed a st v body s = body s) ∨
    (st ≠ 0xF#4 ∧ strobed a st v body s = raise (.wr st v) .partialWrite a s) := by
  unfold strobed
  split <;> simp_all

@[simp] theorem strobed_full (a : Addr) (v : Word) (body : State → State) (s : State) :
    strobed a 0xF#4 v body s = body s := by
  simp [strobed]

theorem strobed_partial {st : Strobes} (h : st ≠ 0xF#4) (a : Addr) (v : Word) (body : State → State)
    (s : State) : strobed a st v body s = raise (.wr st v) .partialWrite a s := by
  simp [strobed, h]

/-- A live read changes only the response and, while a commit is pending, the count of free values. -/
theorem respondLive_cases (v : Word) (s : State) :
    (s.pendC = false ∧ respondLive v s = { s with resp := some ⟨false, some v⟩ }) ∨
    (s.pendC = true ∧ respondLive v s =
      { s with resp := some ⟨false, some (Config.liveReadback s.free)⟩, free := s.free + 1 }) := by
  unfold respondLive respond
  cases s.pendC <;> simp

/-- APPLY installs the whole shadow at a block boundary, or does nothing. -/
theorem applyStep_cases (s : State) :
    (s.pendA = true ∧ s.atb = true ∧ applyStep s = { s with lv := s.sh, pendA := false }) ∨
    (¬ (s.pendA = true ∧ s.atb = true) ∧ applyStep s = s) := by
  unfold applyStep install
  split <;> simp_all

/-- A shadow write stores, or is refused while a commit is pending. -/
theorem writeShadow_cases (a : Addr) (v : Word) (sh : CoefFile) (s : State) :
    (s.pendC = false ∧ writeShadow a v sh s = { s with sh := sh, resp := some ⟨false, none⟩ }) ∨
    (s.pendC = true ∧ writeShadow a v sh s = raise (.wr 0xF#4 v) .shadowLocked a s) := by
  unfold writeShadow ackWrite
  cases s.pendC <;> simp

end Sys2Proof.Machine
end

