-- ==== Sys2Proof/Laws/Fifo.lean ====
section
/-!
SUPPORT. What a Gray code, a push, a pull and a run of pulls can do, said once (41_fifo R271 to R281).
-/

namespace Sys2Proof.Machine

open Sys2Proof.Safety

/-! ## Gray codes -/

@[simp] theorem gray2bin_gray (b : Ptr) : gray2bin (gray b) = b := by
  revert b; decide

@[simp] theorem gray_gray2bin (g : Ptr) : gray (gray2bin g) = g := by
  revert g; decide

theorem gray_injective {a b : Ptr} (h : gray a = gray b) : a = b := by
  rw [← gray2bin_gray a, h, gray2bin_gray]

/-! ## Pointers -/

/-- Adding a small count moves a pointer that far round the ring of 64. -/
theorem ptr_sub_toNat (a b : Ptr) : (a - b).toNat = (64 + a.toNat - b.toNat) % 64 := by
  simp only [BitVec.toNat_sub]
  omega

theorem ptr_add_toNat (a : Ptr) (n : Nat) : (a + BitVec.ofNat 6 n).toNat = (a.toNat + n) % 64 := by
  simp [BitVec.toNat_add, Nat.add_mod]

/-- Two pointers less than 32 apart address different slots. -/
theorem slotIx_ne {a : Ptr} {i j : Nat} (hi : i < 32) (hj : j < 32) (h : i ≠ j) :
    slotIx (a + BitVec.ofNat 6 i) ≠ slotIx (a + BitVec.ofNat 6 j) := by
  intro e
  have := congrArg Fin.val e
  simp only [slotIx, ptr_add_toNat] at this
  omega

/-- The write pointer is the read pointer moved by the occupancy. -/
theorem rd_add_levelB (f : FifoB) : f.rd + BitVec.ofNat 6 (levelB f) = f.wr := by
  simp only [levelB, BitVec.ofNat_toNat, BitVec.setWidth_eq]
  bv_omega

theorem rd_add_trueLevelA (f : FifoA) : f.rd + BitVec.ofNat 6 (trueLevelA f) = f.wr := by
  simp only [trueLevelA, BitVec.ofNat_toNat, BitVec.setWidth_eq]
  bv_omega

/-! ## Settled synchronisers -/

/-- Once settled, both views of FIFO-A show the true occupancy, and nothing else has changed. -/
@[simp] theorem levelW_settle (f : FifoA) : levelW (settle f) = trueLevelA f := by
  simp [levelW, settle, syncR2WFifo, syncW2RFifo, trueLevelA]

@[simp] theorem levelR_settle (f : FifoA) : levelR (settle f) = trueLevelA f := by
  simp [levelR, settle, syncR2WFifo, syncW2RFifo, trueLevelA]

@[simp] theorem trueLevelA_settle (f : FifoA) : trueLevelA (settle f) = trueLevelA f := rfl

@[simp] theorem contentsA_settle (f : FifoA) : contentsA (settle f) = contentsA f := rfl

/-! ## Pushes and pulls -/

/-- A push is dropped and changes nothing, or fills one slot and moves the write pointer. -/
theorem pushA_cases (f : FifoA) (v : List F32) :
    (30 ≤ levelW f ∧ pushA f v = (false, f)) ∨
    (levelW f < 30 ∧
      pushA f v = (true, { f with slot := f.slot.set (slotIx f.wr) v, wr := f.wr + 1 })) := by
  unfold pushA Config.capacity
  split <;> simp_all

theorem pushB_cases (f : FifoB) (v : Spectrum) :
    (30 ≤ levelB f ∧ pushB f v = (false, f)) ∨
    (levelB f < 30 ∧
      pushB f v = (true, { f with slot := f.slot.set (slotIx f.wr) v, wr := f.wr + 1 })) := by
  unfold pushB Config.capacity
  split <;> simp_all

/-- A pull finds nothing, or gives the slot at the read pointer and moves that pointer. -/
theorem pullA_cases (f : FifoA) :
    (levelR f = 0 ∧ pullA f = none) ∨
    (0 < levelR f ∧ pullA f = some (f.slot[slotIx f.rd], { f with rd := f.rd + 1 })) := by
  unfold pullA
  split <;> simp_all
  omega

theorem pullB_cases (f : FifoB) :
    (levelB f = 0 ∧ pullB f = none) ∨
    (0 < levelB f ∧ pullB f = some (f.slot[slotIx f.rd], { f with rd := f.rd + 1 })) := by
  unfold pullB
  split <;> simp_all
  omega

/-- One pull lowers a positive occupancy by one. -/
theorem levelB_rd_succ (f : FifoB) (h : 0 < levelB f) :
    levelB { f with rd := f.rd + 1 } = levelB f - 1 := by
  simp only [levelB] at *
  have h1 : f.wr - (f.rd + 1) = f.wr - f.rd - 1 := by bv_omega
  rw [h1]
  bv_omega

/-- A push below capacity raises the occupancy by one. -/
theorem levelB_wr_succ (f : FifoB) (h : levelB f < 63) :
    levelB { f with wr := f.wr + 1 } = levelB f + 1 := by
  simp only [levelB] at *
  have h1 : f.wr + 1 - f.rd = f.wr - f.rd + 1 := by bv_omega
  rw [h1]
  bv_omega

/-- A run of pulls no longer than the occupancy gives the last slot it read and moves the read pointer
past all of them (41_fifo R281). -/
theorem pullMany_eq (n : Nat) (f : FifoB) (last : Option Spectrum) (h : n ≤ levelB f) :
    pullMany n f last =
      (if n = 0 then last else some f.slot[slotIx (f.rd + BitVec.ofNat 6 (n - 1))],
       { f with rd := f.rd + BitVec.ofNat 6 n }) := by
  induction n generalizing f last with
  | zero => simp [pullMany]
  | succ n ih =>
    have hp : 0 < levelB f := by omega
    have hl := levelB_rd_succ f hp
    rcases pullB_cases f with ⟨h0, -⟩ | ⟨-, h1⟩
    · omega
    · simp only [pullMany, h1]
      rw [ih _ _ (by omega)]
      have e (k : Nat) : f.rd + 1#6 + BitVec.ofNat 6 k = f.rd + BitVec.ofNat 6 (k + 1) := by
        rw [BitVec.add_assoc]; congr 1
        apply BitVec.eq_of_toNat_eq; simp [BitVec.toNat_add, Nat.add_comm]
      cases n with
      | zero => simp
      | succ m => simp only [Nat.succ_ne_zero, if_false, Nat.add_sub_cancel]; simp [e]

end Sys2Proof.Machine
end

