-- ==== Sys2Proof/Laws/Encoding.lean ====
section
/-!
SUPPORT. The fields of an encoded word, read back: bus access words, command words and frames, and the
address of each register (30_encoding R141 to R148, 44_control R407).
-/

namespace Sys2Proof.Machine

/-! ## Bus access words -/

@[simp] theorem busWe_readWord (a : Addr) : busWe (readWord a) = false := by
  unfold busWe readWord
  rw [BitVec.getLsbD_append]
  simp

@[simp] theorem busAddr_readWord (a : Addr) : busAddr (readWord a) = a := by
  unfold busAddr readWord
  rw [BitVec.extractLsb'_append_eq_right]

@[simp] theorem busWe_writeWord (a : Addr) (st : Strobes) (v : Word) :
    busWe (writeWord a st v) = true := by
  unfold busWe writeWord
  rw [BitVec.getLsbD_append, BitVec.getLsbD_append]
  simp

@[simp] theorem busAddr_writeWord (a : Addr) (st : Strobes) (v : Word) :
    busAddr (writeWord a st v) = a := by
  unfold busAddr writeWord
  rw [BitVec.extractLsb'_append_eq_right]

@[simp] theorem busStrobes_writeWord (a : Addr) (st : Strobes) (v : Word) :
    busStrobes (writeWord a st v) = st := by
  unfold busStrobes writeWord
  rw [BitVec.extractLsb'_append_eq_of_le (by decide), BitVec.extractLsb'_append_eq_of_le (by decide),
    BitVec.extractLsb'_append_eq_right]
  simp

@[simp] theorem busData_writeWord (a : Addr) (st : Strobes) (v : Word) :
    busData (writeWord a st v) = v := by
  unfold busData writeWord
  rw [BitVec.extractLsb'_append_eq_of_le (by decide), BitVec.extractLsb'_append_eq_of_le (by decide),
    BitVec.extractLsb'_append_eq_of_le (by decide)]
  simp

/-! ## Command words and frames -/

@[simp] theorem cmdOpc_cmdWord (opc : BitVec 8) (arg : BitVec 24) : cmdOpc (cmdWord opc arg) = opc := by
  unfold cmdOpc cmdWord
  rw [BitVec.extractLsb'_append_eq_of_le (by decide)]
  simp

theorem cmdWord_arg (opc : BitVec 8) (arg : BitVec 24) :
    (cmdWord opc arg).extractLsb' 0 24 = arg := by
  unfold cmdWord
  rw [BitVec.extractLsb'_append_eq_right]

@[simp] theorem ofBit_bit (c : Ch) : Ch.ofBit c.bit = c := by cases c <;> rfl

@[simp] theorem frameBits_last (last : Bool) (d1 d0 : F32) :
    (frameBits last d1 d0).getLsbD 64 = last := by
  unfold frameBits
  rw [BitVec.getLsbD_append, BitVec.getLsbD_append]
  simp

@[simp] theorem frameBits_d1 (last : Bool) (d1 d0 : F32) :
    (frameBits last d1 d0).extractLsb' 32 32 = d1 := by
  unfold frameBits
  rw [BitVec.extractLsb'_append_eq_of_le (by decide), BitVec.extractLsb'_append_eq_right]

@[simp] theorem frameBits_d0 (last : Bool) (d1 d0 : F32) :
    (frameBits last d1 d0).extractLsb' 0 32 = d0 := by
  unfold frameBits
  rw [BitVec.extractLsb'_append_eq_right]

/-! ## The address map -/

theorem regAt_coef : ∀ (s : Sec) (k : Tap),
    regAt (regAddr (.coef s k)) = some (.coef s k) ∧
    regAt (regAddr (.coefLive s k)) = some (.coefLive s k) := by
  intro s k
  cases k <;> revert s <;> decide

theorem regAt_outbuf (c : Ch) (j : BitVec 12) :
    regAt (regAddr (.outbuf c j)) = some (.outbuf c j) := by
  have hj := j.isLt
  cases c
  · have h : (regAddr (.outbuf .left j)).toNat = 0x4000 + 4 * j.toNat := by
      simp only [regAddr, BitVec.toNat_ofNat]; omega
    simp only [regAt, h]
    rw [if_neg (by simp; try omega), if_neg (by omega), if_neg (by simp; try omega),
      if_neg (by simp; try omega), if_pos (by simp; omega)]
    have e : (0x4000 + 4 * j.toNat - 0x4000) / 4 = j.toNat := by omega
    rw [e]; simp
  · have h : (regAddr (.outbuf .right j)).toNat = 0x8000 + 4 * j.toNat := by
      simp only [regAddr, BitVec.toNat_ofNat]; omega
    simp only [regAt, h]
    rw [if_neg (by simp; try omega), if_neg (by omega), if_neg (by simp; try omega),
      if_neg (by simp; try omega), if_neg (by simp), if_pos (by simp; omega)]
    have e : (0x8000 + 4 * j.toNat - 0x8000) / 4 = j.toNat := by omega
    rw [e]; simp

/-- Every register is found at its address. -/
@[simp] theorem regAt_regAddr (r : Reg) : regAt (regAddr r) = some r := by
  cases r with
  | coef s k => exact (regAt_coef s k).1
  | coefLive s k => exact (regAt_coef s k).2
  | outbuf c j => exact regAt_outbuf c j
  | fifoaLevel c => cases c <;> decide
  | fifobLevel c => cases c <;> decide
  | fifoaPtr c => cases c <;> decide
  | fifobPtr c => cases c <;> decide
  | outbufInfo c => cases c <;> decide
  | histCnt c => cases c <;> decide
  | _ => decide

/-- A register's address is aligned: what is mapped is not misaligned. -/
theorem not_misaligned_of_regAt {a : Addr} {r : Reg} (h : regAt a = some r) : misaligned a = false := by
  simp only [regAt] at h
  unfold misaligned
  split at h
  · cases h
  · simp_all

@[simp] theorem misaligned_regAddr (r : Reg) : misaligned (regAddr r) = false :=
  not_misaligned_of_regAt (regAt_regAddr r)

end Sys2Proof.Machine
end

