-- ==== Sys2Proof/Laws/Rows.lean ====
section
/-!
SUPPORT. What each row of an access does, in terms of the read rule and the write rule of its register, and
what a command word does, in terms of `runCommand`.
-/

namespace Sys2Proof.Machine

theorem secOf07_ofNat {s : Sec} (h : ¬ s.val = 8) : secOf07 (BitVec.ofNat 3 s.val) = s := by
  apply Fin.ext
  have := s.isLt
  simp only [secOf07, BitVec.toNat_ofNat]
  omega

/-- A read row performs the read rule of its register. -/
theorem exec_readRow (r : Reg) (s : State) : exec (readRow r) s = .next (readReg r s) := by
  cases r with
  | coef i k =>
    simp only [readRow]
    split
    · rename_i h
      obtain rfl : i = 8 := Fin.ext h
      rfl
    · rename_i h
      simp only [exec, execRdCoefS07, secOf07_ofNat h]
      rfl
  | coefLive i k =>
    simp only [readRow]
    split
    · rename_i h
      obtain rfl : i = 8 := Fin.ext h
      rfl
    · rename_i h
      simp only [exec, execRdCoefLiveS07, secOf07_ofNat h]
      rfl
  | outbuf c j => cases c <;> rfl
  | _ => rfl

/-- A write row performs the write rule of its register, or is refused as partial. -/
theorem exec_writeRow (st : Strobes) (v : Word) (r : Reg) (s : State) :
    exec (writeRow st v r) s = .next (strobed (regAddr r) st v (writeReg r v) s) := by
  have ro : ∀ r', (.next (refuseReadOnly r' st v s) : Outcome) =
      .next (strobed (regAddr r') st v (raise (.wr 0xF#4 v) .readOnly (regAddr r')) s) := by
    intro r'
    unfold refuseReadOnly
    rcases strobed_cases (regAddr r') st v (raise (.wr st v) .readOnly (regAddr r')) s with ⟨h, -⟩ | ⟨h, -⟩
    · subst h; rfl
    · rw [strobed_partial h, strobed_partial h]
  cases r with
  | ctrl => rfl
  | chainCfg => rfl
  | status => rfl
  | cmd => rfl
  | accLen => rfl
  | silenceFloor => rfl
  | coef i k =>
    simp only [writeRow]
    split
    · rename_i h
      obtain rfl : i = 8 := Fin.ext h
      rfl
    · rename_i h
      simp only [exec, execWrCoefS07, secOf07_ofNat h]
      rfl
  | coefLive i k =>
    simp only [writeRow]
    split
    · rename_i h
      obtain rfl : i = 8 := Fin.ext h
      exact ro _
    · rename_i h
      simp only [exec, execWrCoefLiveS07, secOf07_ofNat h]
      exact ro _
  | outbuf c j => cases c <;> exact ro _
  | _ => exact ro _

/-- A decoded command word does what a write of it to CMD does. -/
theorem exec_cmdRow (w : Word) (s : State) : exec (cmdRow (decodeCmd w)) s = .next (runCommand w s) := by
  unfold runCommand
  cases decodeCmd w <;> rfl

end Sys2Proof.Machine
end

