-- ==== Sys2Proof/Laws/Step.lean ====
section
/-!
SUPPORT. What one step can do, said once: it runs the operation of the agent that moves, or it is the reset
event, or nothing moves but the schedule.
-/

namespace Sys2Proof.Machine

/-- Two states that differ in the schedule, the queues and the count of free values only. -/
def SameBlock (s s' : State) : Prop :=
  ∃ turns busQ srcQ free, s' = { s with turns := turns, busQ := busQ, srcQ := srcQ, free := free }

theorem SameBlock_refl (s : State) : SameBlock s s := ⟨s.turns, s.busQ, s.srcQ, s.free, rfl⟩

/-- A step runs an operation on the state with its schedule moved on, or resets the block, or only moves
the schedule on. -/
theorem step_cases {s t : State} (h : step s = .next t) :
    ∃ s', SameBlock s s' ∧
      ((∃ i, exec i s' = .next t) ∨ t = resetBlock s' ∨ t = s') := by
  have hn : SameBlock s (nextTurn s).2 := by
    unfold nextTurn
    split
    · rename_i a ts _
      exact ⟨ts, s.busQ, s.srcQ, s.free, rfl⟩
    · exact ⟨s.turns, s.busQ, s.srcQ, s.free + 1, rfl⟩
  have hc : ∀ a s', SameBlock s s' → SameBlock s (consume a s') := by
    rintro a s' ⟨ts, b, q, f, rfl⟩
    cases a with
    | hostBus => exact ⟨ts, b.tail, q, f, rfl⟩
    | audioSrc =>
      simp only [consume]
      split
      · exact ⟨ts, b, q.tail, f, rfl⟩
      · exact ⟨ts, b, q, f, rfl⟩
    | _ => exact ⟨ts, b, q, f, rfl⟩
  unfold step runTurn at h
  split at h
  · exact ⟨_, hc _ _ hn, .inl ⟨_, h⟩⟩
  · injection h with h
    refine ⟨_, hn, .inr ?_⟩
    cases hh : (nextTurn s).1 <;> rw [hh] at h <;> first | exact .inl h.symm | exact .inr h.symm

/-- An invariant of every operation and of the reset event, blind to the schedule, is an invariant of
every step. -/
theorem step_preserves {P : State → Prop} (hq : ∀ s s', SameBlock s s' → P s → P s')
    (hr : ∀ s, P (resetBlock s)) (hx : ∀ i s t, P s → exec i s = .next t → P t) {s t : State} (h : P s)
    (hs : step s = .next t) : P t := by
  obtain ⟨s', hb, h' | rfl | rfl⟩ := step_cases hs
  · obtain ⟨i, hi⟩ := h'
    exact hx i s' t (hq s s' hb h) hi
  · exact hr s'
  · exact hq s _ hb h

end Sys2Proof.Machine
end

