-- ==== Sys2Proof/Laws/Exec.lean ====
section
/-!
SUPPORT. What one operation can do to the channels, the commit handshake and the configuration values, said
once: every operation has one of a few effects on them, and its other effects are on the rest of the
state (the response, the error bookkeeping, CMD_RESULT, CTRL, the shadow, the output register).
-/

namespace Sys2Proof.Machine

/-- The effects that operations have on the channels, the handshake and the configuration values. -/
inductive Effect (s : State) : State → Prop
  | nothing : Effect s s
  | commit : s.pendC = false → Effect s { s with pendC := true, pendA := true }
  | prepare : s.ctrl.run = false → s.ctrl.fftEn = false → Effect s (prepareState s)
  | clear : Effect s (mapCh clearDelay s)
  | order (ord : BitVec 4) : orderLegal ord = true →
      Effect s (mapCh (reorderChan (fftSize ord)) { s with fftOrder := ord })
  | pull (c : Ch) (n : Nat) (v : Spectrum) (fb : FifoB) : n ≤ levelB (getCh s c).fb →
      pullMany n (getCh s c).fb none = (some v, fb) →
      Effect s (setCh s c { getCh s c with fb := fb, ob := loadOutBuf (getCh s c).ob v })
  | setLen (v : Word) : accLenLegal v = true → Effect s { s with accLen := v.extractLsb' 0 14 }
  | setFloor (v : F32) : f32IsFinite v = true → Effect s { s with floor := v }
  | frame (last : Bool) (d1 d0 : F32) : sReady s = true → Effect s (acceptFrame last d1 d0 s)
  | ingest (c : Ch) (v : F32) : Effect s (setCh s c (ingestChan s.llive.toNat v (getCh s c)))
  | apply : s.pendA = true → s.atb = true → Effect s (install s)
  | ack : s.pendC = true → s.pendA = false → Effect s { s with pendC := false }
  | syncW2R (c : Ch) : Effect s (setCh s c { getCh s c with fa := syncW2RFifo (getCh s c).fa })
  | syncR2W (c : Ch) : Effect s (setCh s c { getCh s c with fa := syncR2WFifo (getCh s c).fa })
  | fft (c : Ch) : s.ctrl.fftEn = true →
      Effect s (setCh s c (fftChan (fftSize s.fftOrder) s.floor (getCh s c)))

/-- `t` has the channels, the handshake and the configuration values of `u`. -/
structure Kept (u t : State) : Prop where
  ch : t.ch = u.ch
  pendA : t.pendA = u.pendA
  pendC : t.pendC = u.pendC
  fftOrder : t.fftOrder = u.fftOrder
  accLen : t.accLen = u.accLen
  llive : t.llive = u.llive
  floor : t.floor = u.floor

theorem Kept_refl (s : State) : Kept s s := ⟨rfl, rfl, rfl, rfl, rfl, rfl, rfl⟩

/-- An effect, and nothing else of what `Kept` names. -/
def Affects (s t : State) : Prop := ∃ u, Effect s u ∧ Kept u t

theorem affects_nothing {s t : State} (h : Kept s t) : Affects s t := ⟨s, .nothing, h⟩

theorem affects_effect {s u : State} (h : Effect s u) : Affects s u := ⟨u, h, Kept_refl u⟩

theorem affects_raise (acc : Access) (c : ErrCode) (a : Addr) (s : State) : Affects s (raise acc c a s) :=
  affects_nothing ⟨rfl, rfl, rfl, rfl, rfl, rfl, rfl⟩

theorem affects_respond (v : Word) (s : State) : Affects s (respond v s) :=
  affects_nothing ⟨rfl, rfl, rfl, rfl, rfl, rfl, rfl⟩

theorem affects_respondLive (v : Word) (s : State) : Affects s (respondLive v s) := by
  rcases respondLive_cases v s with ⟨-, h⟩ | ⟨-, h⟩ <;> rw [h] <;>
    exact affects_nothing ⟨rfl, rfl, rfl, rfl, rfl, rfl, rfl⟩

theorem affects_strobed {a : Addr} {st : Strobes} {v : Word} {body : State → State} {s : State}
    (h : Affects s (body s)) : Affects s (strobed a st v body s) := by
  rcases strobed_cases a st v body s with ⟨-, e⟩ | ⟨-, e⟩ <;> rw [e]
  · exact h
  · exact affects_raise _ _ _ _

theorem affects_readOnly (r : Reg) (st : Strobes) (v : Word) (s : State) :
    Affects s (refuseReadOnly r st v s) := affects_strobed (affects_raise _ _ _ _)

theorem affects_writeShadow (a : Addr) (v : Word) (sh : CoefFile) (s : State) :
    Affects s (writeShadow a v sh s) := by
  rcases writeShadow_cases a v sh s with ⟨-, e⟩ | ⟨-, e⟩ <;> rw [e]
  · exact affects_nothing ⟨rfl, rfl, rfl, rfl, rfl, rfl, rfl⟩
  · exact affects_raise _ _ _ _

theorem affects_writeAccLen (v : Word) (s : State) : Affects s (writeAccLen v s) := by
  unfold writeAccLen
  split
  · rename_i h
    exact ⟨_, .setLen v h, ⟨rfl, rfl, rfl, rfl, rfl, rfl, rfl⟩⟩
  · exact affects_raise _ _ _ _

theorem affects_writeSilenceFloor (v : Word) (s : State) : Affects s (writeSilenceFloor v s) := by
  unfold writeSilenceFloor
  split
  · rename_i h
    exact ⟨_, .setFloor v h, ⟨rfl, rfl, rfl, rfl, rfl, rfl, rfl⟩⟩
  · exact affects_raise _ _ _ _

theorem affects_doCommit (s : State) : Affects s (doCommit s) := by
  unfold doCommit
  split
  · exact affects_nothing ⟨rfl, rfl, rfl, rfl, rfl, rfl, rfl⟩
  · rename_i h
    exact ⟨_, .commit (by simpa using h), ⟨rfl, rfl, rfl, rfl, rfl, rfl, rfl⟩⟩

theorem affects_doPrepare (s : State) : Affects s (doPrepare s) := by
  unfold doPrepare
  split
  · exact affects_raise _ _ _ _
  · rename_i h
    simp only [not_or, Bool.not_eq_true] at h
    exact ⟨_, .prepare h.1 h.2, ⟨rfl, rfl, rfl, rfl, rfl, rfl, rfl⟩⟩

theorem affects_doSetFftOrder (ord : BitVec 4) (s : State) : Affects s (doSetFftOrder ord s) := by
  unfold doSetFftOrder
  split
  · exact affects_raise _ _ _ _
  split
  · rename_i h
    exact ⟨_, .order ord h, ⟨rfl, rfl, rfl, rfl, rfl, rfl, rfl⟩⟩
  · exact affects_raise _ _ _ _

theorem affects_doPullFrame (c : Ch) (s : State) : Affects s (doPullFrame c s) := by
  unfold doPullFrame
  rcases pullB_cases (getCh s c).fb with ⟨-, h⟩ | ⟨hl, h⟩ <;> rw [h]
  · exact affects_nothing ⟨rfl, rfl, rfl, rfl, rfl, rfl, rfl⟩
  · exact ⟨_, .pull c 1 _ _ hl (by simp only [pullMany, h]), ⟨rfl, rfl, rfl, rfl, rfl, rfl, rfl⟩⟩

theorem affects_doPullLatest (c : Ch) (s : State) : Affects s (doPullLatest c s) := by
  unfold doPullLatest
  simp only []
  split
  · exact affects_nothing ⟨rfl, rfl, rfl, rfl, rfl, rfl, rfl⟩
  · rename_i v fb h
    exact ⟨_, .pull c _ v fb (Nat.le_refl _) h, ⟨rfl, rfl, rfl, rfl, rfl, rfl, rfl⟩⟩

theorem affects_runCommand (w : Word) (s : State) : Affects s (runCommand w s) := by
  unfold runCommand
  split
  · exact affects_nothing ⟨rfl, rfl, rfl, rfl, rfl, rfl, rfl⟩
  · exact affects_doCommit s
  · exact affects_doPrepare s
  · exact ⟨_, .clear, ⟨rfl, rfl, rfl, rfl, rfl, rfl, rfl⟩⟩
  · exact affects_doSetFftOrder _ s
  · exact affects_doPullFrame _ s
  · exact affects_doPullLatest _ s
  · exact affects_raise _ _ _ _

theorem affects_readReg (r : Reg) (s : State) : Affects s (readReg r s) := by
  cases r <;> first | exact affects_respond _ s | exact affects_respondLive _ s

theorem affects_writeReg (r : Reg) (v : Word) (s : State) : Affects s (writeReg r v s) := by
  cases r <;> first
    | exact affects_raise _ _ _ _
    | exact affects_runCommand v s
    | exact affects_writeShadow _ _ _ s
    | exact affects_writeAccLen v s
    | exact affects_writeSilenceFloor v s
    | exact affects_nothing ⟨rfl, rfl, rfl, rfl, rfl, rfl, rfl⟩

/-- Every operation has one of the effects. -/
theorem exec_affects {i : Instr} {s t : State} (h : exec i s = .next t) : Affects s t := by
  cases i with
  | busReadChecks a =>
    injection h with h
    subst h
    unfold busRead
    split
    · exact affects_raise _ _ _ _
    split
    · exact affects_raise _ _ _ _
    · exact affects_readReg _ s
  | busWriteChecks a st v =>
    injection h with h
    subst h
    unfold busWrite
    split
    · exact affects_raise _ _ _ _
    split
    · exact affects_raise _ _ _ _
    split
    · exact affects_raise _ _ _ _
    · exact affects_writeReg _ v s
  | busUnmapped acc a =>
    cases acc <;> injection h with h <;> subst h
    · exact affects_raise _ _ _ _
    · exact affects_strobed (affects_raise _ _ _ _)
  | frame last d1 d0 =>
    injection h with h
    subst h
    split
    · rename_i hr
      exact affects_effect (.frame last d1 d0 hr)
    · exact affects_effect .nothing
  | take =>
    injection h with h
    subst h
    split <;> exact affects_nothing ⟨rfl, rfl, rfl, rfl, rfl, rfl, rfl⟩
  | ingest c v =>
    injection h with h
    subst h
    exact affects_effect (.ingest c v)
  | apply =>
    injection h with h
    subst h
    unfold applyStep
    split
    · rename_i ha
      exact affects_effect (.apply ha.1 ha.2)
    · exact affects_effect .nothing
  | syncAck =>
    injection h with h
    subst h
    split
    · rename_i ha
      exact affects_effect (.ack ha.1 ha.2)
    · exact affects_effect .nothing
  | syncW2R c =>
    injection h with h
    subst h
    exact affects_effect (.syncW2R c)
  | syncR2W c =>
    injection h with h
    subst h
    exact affects_effect (.syncR2W c)
  | fftStep c =>
    injection h with h
    subst h
    split
    · rename_i ha
      exact affects_effect (.fft c ha)
    · exact affects_effect .nothing
  | clearState =>
    injection h with h
    subst h
    exact ⟨_, .clear, ⟨rfl, rfl, rfl, rfl, rfl, rfl, rfl⟩⟩
  | _ =>
    injection h with h
    subst h
    first
      | exact affects_respond _ s
      | exact affects_respondLive _ s
      | exact affects_readOnly _ _ _ s
      | exact affects_raise _ _ _ s
      | exact affects_doCommit s
      | exact affects_doPrepare s
      | exact affects_doSetFftOrder _ s
      | exact affects_doPullFrame _ s
      | exact affects_doPullLatest _ s
      | exact affects_strobed (affects_runCommand _ s)
      | exact affects_strobed (affects_writeShadow _ _ _ s)
      | exact affects_strobed (affects_writeAccLen _ s)
      | exact affects_strobed (affects_writeSilenceFloor _ s)
      | exact affects_nothing ⟨rfl, rfl, rfl, rfl, rfl, rfl, rfl⟩
      | exact affects_strobed (affects_nothing ⟨rfl, rfl, rfl, rfl, rfl, rfl, rfl⟩)

end Sys2Proof.Machine
end

