-- ==== Sys2Proof/Laws/Channel.lean ====
section
/-!
SUPPORT. What an operation can do to one channel, said once: the collector's INGEST, the engine's FFT_STEP,
and the effect on a channel of any operation (42_collector R321, 43_spectrum R346).
-/

namespace Sys2Proof.Machine

/-! ## INGEST -/

/-- INGEST stores the sample and either counts it, or starts the block again and offers it to FIFO-A. -/
theorem ingestChan_cases (len : Nat) (v : F32) (k : Chan) :
    (k.acnt + 1 ≠ len ∧
      ingestChan len v k = { k with acc := memWrite k.acc k.acnt v, acnt := k.acnt + 1 }) ∨
    (k.acnt + 1 = len ∧
      ingestChan len v k =
        { k with
          acc := memWrite k.acc k.acnt v
          fa := (pushA k.fa (memPrefix (memWrite k.acc k.acnt v) len)).2
          acnt := 0 }) := by
  unfold ingestChan
  by_cases h : k.acnt + 1 = len
  · exact .inr ⟨h, by simp [h]⟩
  · exact .inl ⟨h, by simp [h]⟩

@[simp] theorem ingestChan_acc (len : Nat) (v : F32) (k : Chan) :
    (ingestChan len v k).acc = memWrite k.acc k.acnt v := by
  rcases ingestChan_cases len v k with ⟨-, e⟩ | ⟨-, e⟩ <;> rw [e]

@[simp] theorem ingestChan_st (len : Nat) (v : F32) (k : Chan) : (ingestChan len v k).st = k.st := by
  rcases ingestChan_cases len v k with ⟨-, e⟩ | ⟨-, e⟩ <;> rw [e]

@[simp] theorem ingestChan_hist (len : Nat) (v : F32) (k : Chan) :
    (ingestChan len v k).hist = k.hist := by
  rcases ingestChan_cases len v k with ⟨-, e⟩ | ⟨-, e⟩ <;> rw [e]

@[simp] theorem ingestChan_hcnt (len : Nat) (v : F32) (k : Chan) :
    (ingestChan len v k).hcnt = k.hcnt := by
  rcases ingestChan_cases len v k with ⟨-, e⟩ | ⟨-, e⟩ <;> rw [e]

@[simp] theorem ingestChan_fb (len : Nat) (v : F32) (k : Chan) : (ingestChan len v k).fb = k.fb := by
  rcases ingestChan_cases len v k with ⟨-, e⟩ | ⟨-, e⟩ <;> rw [e]

@[simp] theorem ingestChan_ob (len : Nat) (v : F32) (k : Chan) : (ingestChan len v k).ob = k.ob := by
  rcases ingestChan_cases len v k with ⟨-, e⟩ | ⟨-, e⟩ <;> rw [e]

/-! ## FFT_STEP -/

/-- FFT_STEP does nothing on a FIFO-A that looks empty; else it pulls one block into the history and, when
the history is full, offers one frame to FIFO-B. -/
theorem fftChan_cases (size : Nat) (f : F32) (k : Chan) :
    (levelR k.fa = 0 ∧ fftChan size f k = k) ∨
    (0 < levelR k.fa ∧ ∃ k', k' = extendHistory size k.fa.slot[slotIx k.fa.rd]
        { k with fa := { k.fa with rd := k.fa.rd + 1 } } ∧
      ((k'.hcnt.toNat = size ∧
          fftChan size f k = { k' with fb := (pushB k.fb (spectrum k'.hist size f)).2 }) ∨
        (k'.hcnt.toNat ≠ size ∧ fftChan size f k = k'))) := by
  rcases pullA_cases k.fa with ⟨h, e⟩ | ⟨h, e⟩
  · exact .inl ⟨h, by simp [fftChan, e]⟩
  · refine .inr ⟨h, _, rfl, ?_⟩
    simp only [fftChan, e]
    by_cases hc : (extendHistory size k.fa.slot[slotIx k.fa.rd]
        { k with fa := { k.fa with rd := k.fa.rd + 1 } }).hcnt.toNat = size
    · exact .inl ⟨hc, if_pos hc⟩
    · exact .inr ⟨hc, if_neg hc⟩

@[simp] theorem fftChan_acc (size : Nat) (f : F32) (k : Chan) : (fftChan size f k).acc = k.acc := by
  rcases fftChan_cases size f k with ⟨-, e⟩ | ⟨-, k', rfl, ⟨-, e⟩ | ⟨-, e⟩⟩ <;> rw [e] <;> rfl

@[simp] theorem fftChan_acnt (size : Nat) (f : F32) (k : Chan) : (fftChan size f k).acnt = k.acnt := by
  rcases fftChan_cases size f k with ⟨-, e⟩ | ⟨-, k', rfl, ⟨-, e⟩ | ⟨-, e⟩⟩ <;> rw [e] <;> rfl

@[simp] theorem fftChan_st (size : Nat) (f : F32) (k : Chan) : (fftChan size f k).st = k.st := by
  rcases fftChan_cases size f k with ⟨-, e⟩ | ⟨-, k', rfl, ⟨-, e⟩ | ⟨-, e⟩⟩ <;> rw [e] <;> rfl

@[simp] theorem fftChan_ob (size : Nat) (f : F32) (k : Chan) : (fftChan size f k).ob = k.ob := by
  rcases fftChan_cases size f k with ⟨-, e⟩ | ⟨-, k', rfl, ⟨-, e⟩ | ⟨-, e⟩⟩ <;> rw [e] <;> rfl

/-! ## Any operation -/

/-- The effects that operations have on a channel in state `s`. -/
inductive ChanEffect (s : State) (k : Chan) : Chan → Prop
  | nothing : ChanEffect s k k
  | prepare : ChanEffect s k (prepareChan (fftSize s.fftOrder) k)
  | clear : ChanEffect s k (clearDelay k)
  | order (ord : BitVec 4) : orderLegal ord = true → ChanEffect s k (reorderChan (fftSize ord) k)
  | pull (n : Nat) (v : Spectrum) (fb : FifoB) : n ≤ levelB k.fb → pullMany n k.fb none = (some v, fb) →
      ChanEffect s k { k with fb := fb, ob := loadOutBuf k.ob v }
  | ingest (v : F32) (st : Vector Delay 9) :
      ChanEffect s k (ingestChan s.llive.toNat v { k with st := st })
  | syncW2R : ChanEffect s k { k with fa := syncW2RFifo k.fa }
  | syncR2W : ChanEffect s k { k with fa := syncR2WFifo k.fa }
  | fft : s.ctrl.fftEn = true → ChanEffect s k (fftChan (fftSize s.fftOrder) s.floor k)

theorem chanEffect_setCh {s u : State} {c d : Ch} {x : Chan} (hu : u = setCh s c x)
    (h : ChanEffect s (getCh s c) x) : ChanEffect s (getCh s d) (getCh u d) := by
  subst hu
  by_cases hd : d = c
  · subst hd
    simpa using h
  · rw [getCh_setCh_other s x hd]
    exact .nothing

theorem applyStep_ch (s : State) : (applyStep s).ch = s.ch := by
  rcases applyStep_cases s with ⟨-, -, h⟩ | ⟨-, h⟩ <;> rw [h]

theorem applyStep_llive (s : State) : (applyStep s).llive = s.llive := by
  rcases applyStep_cases s with ⟨-, -, h⟩ | ⟨-, h⟩ <;> rw [h]

theorem getCh_prepareState (s : State) (c : Ch) :
    getCh (prepareState s) c = prepareChan (fftSize s.fftOrder) (getCh s c) := by
  simp only [prepareState, getCh_mapCh]
  split <;> rfl

/-- An effect on the state is one of the effects on each channel. -/
theorem effect_chan {s u : State} (h : Effect s u) (c : Ch) : ChanEffect s (getCh s c) (getCh u c) := by
  cases h with
  | nothing => exact .nothing
  | commit _ => exact .nothing
  | prepare _ _ =>
    rw [getCh_prepareState]
    exact .prepare
  | clear =>
    rw [getCh_mapCh]
    exact .clear
  | order ord h =>
    rw [getCh_mapCh]
    exact .order ord h
  | pull c' n v fb h1 h2 => exact chanEffect_setCh rfl (.pull n v fb h1 h2)
  | setLen _ _ => exact .nothing
  | setFloor _ _ => exact .nothing
  | frame last d1 d0 _ =>
    cases c
    · simp only [acceptFrame, frameChan, getCh_left, applyStep_ch, applyStep_llive]
      exact .ingest _ _
    · simp only [acceptFrame, frameChan, getCh_right, applyStep_ch, applyStep_llive]
      exact .ingest _ _
  | ingest c' v => exact chanEffect_setCh rfl (.ingest v _)
  | apply _ _ => exact .nothing
  | ack _ _ => exact .nothing
  | syncW2R c' => exact chanEffect_setCh rfl .syncW2R
  | syncR2W c' => exact chanEffect_setCh rfl .syncR2W
  | fft c' h => exact chanEffect_setCh rfl (.fft h)

theorem Kept_getCh {u t : State} (h : Kept u t) (c : Ch) : getCh t c = getCh u c := by
  simp only [getCh, h.ch]

/-- What an operation can do to a channel. -/
theorem exec_chan {i : Instr} {s t : State} (h : exec i s = .next t) (c : Ch) :
    ChanEffect s (getCh s c) (getCh t c) := by
  obtain ⟨u, he, hk⟩ := exec_affects h
  rw [Kept_getCh hk]
  exact effect_chan he c

theorem SameBlock_getCh {s s' : State} (h : SameBlock s s') (c : Ch) : getCh s' c = getCh s c := by
  obtain ⟨_, _, _, _, rfl⟩ := h
  rfl

theorem getCh_resetBlock (s : State) (c : Ch) : getCh (resetBlock s) c = Chan.reset := by
  cases c <;> rfl

end Sys2Proof.Machine
end

