-- ==== Sys2Proof/Laws/Float.lean ====
section
/-!
SUPPORT. binary32 patterns and their fields, and rounding where it is exact (00_scope R9).
-/

namespace Sys2Proof.Machine

theorem f32Abs_toNat (a : F32) : (f32Abs a).toNat = a.toNat % 2 ^ 31 := by
  unfold f32Abs
  rw [BitVec.toNat_and]
  exact Nat.and_two_pow_sub_one_eq_mod a.toNat 31

/-- The magnitude bits are the exponent field over the fraction field. -/
theorem f32_fields (a : F32) :
    (f32Abs a).toNat = f32Exp a * 2 ^ 23 + f32Frac a ∧ f32Frac a < 2 ^ 23 ∧ f32Exp a < 256 := by
  have h1 := f32Abs_toNat a
  have h2 : f32Exp a = a.toNat / 2 ^ 23 % 256 := by
    simp only [f32Exp, BitVec.extractLsb'_toNat, Nat.shiftRight_eq_div_pow]
  have h3 : f32Frac a = a.toNat % 2 ^ 23 := by
    simp [f32Frac, BitVec.extractLsb'_toNat]
  have := a.isLt
  omega

/-- A pattern is its sign over its magnitude bits. -/
theorem f32Pack_abs (a : F32) : f32Pack (f32Sign a) (f32Abs a).toNat = a := by
  rw [f32Abs_toNat]
  unfold f32Pack f32Sign
  apply BitVec.eq_of_getLsbD_eq
  intro i hi
  rw [BitVec.getLsbD_append]
  by_cases h : i < 31
  · have := Nat.testBit_mod_two_pow a.toNat 31 i
    simp only [h, decide_true, Bool.true_and] at this
    simp only [h, decide_true, if_true, BitVec.getLsbD_ofNat, Bool.true_and, this]
    rfl
  · have : i = 31 := by omega
    subst this
    simp

/-- What `f32Pack` holds, whole and field by field. -/
theorem f32Pack_toNat (neg : Bool) {g : Nat} (h : g < 2 ^ 31) :
    (f32Pack neg g).toNat = neg.toNat * 2 ^ 31 + g := by
  unfold f32Pack
  rw [BitVec.toNat_append, BitVec.toNat_ofBool, BitVec.toNat_ofNat, Nat.mod_eq_of_lt h, Nat.shiftLeft_eq,
    Nat.mul_comm, ← Nat.two_pow_add_eq_or_of_lt h]

theorem f32Abs_pack (neg : Bool) {g : Nat} (h : g < 2 ^ 31) : (f32Abs (f32Pack neg g)).toNat = g := by
  rw [f32Abs_toNat, f32Pack_toNat neg h]
  cases neg <;> simp <;> omega

theorem f32Sign_pack (neg : Bool) {g : Nat} (h : g < 2 ^ 31) : f32Sign (f32Pack neg g) = neg := by
  unfold f32Sign
  rw [BitVec.getLsbD, f32Pack_toNat neg h, Nat.testBit, Nat.shiftRight_eq_div_pow]
  cases neg
  · rw [show (false.toNat * 2 ^ 31 + g) / 2 ^ 31 = 0 by simp; omega]
    rfl
  · rw [show (true.toNat * 2 ^ 31 + g) / 2 ^ 31 = 1 by simp; omega]
    rfl

/-- Negation flips the sign and keeps the magnitude bits. -/
@[simp] theorem f32Sign_neg (a : F32) : f32Sign (f32Neg a) = !f32Sign a := by
  simp [f32Sign, f32Neg]

@[simp] theorem f32Abs_neg (a : F32) : f32Abs (f32Neg a) = f32Abs a := by
  unfold f32Abs f32Neg
  apply BitVec.eq_of_getLsbD_eq
  intro i hi
  simp only [BitVec.getLsbD_and, BitVec.getLsbD_xor]
  interval_cases i <;> simp

/-- The two zeros. -/
theorem f32IsZero_iff (x : F32) : f32IsZero x = true ↔ (x = 0x00000000#32 ∨ x = 0x80000000#32) := by
  have h1 := (f32_fields x).1
  have hp := f32Pack_abs x
  constructor
  · intro h
    simp only [f32IsZero, Bool.and_eq_true, beq_iff_eq] at h
    rw [h1, h.1, h.2] at hp
    cases hs : f32Sign x <;> rw [hs] at hp
    · exact .inl hp.symm
    · exact .inr hp.symm
  · rintro (rfl | rfl) <;> decide

/-- A finite pattern is neither NaN nor an infinity. -/
theorem f32_finite_cases {a : F32} (h : f32IsFinite a = true) :
    f32IsNaN a = false ∧ f32IsInf a = false := by
  have : f32Exp a ≠ 255 := by simpa [f32IsFinite] using h
  simp [f32IsNaN, f32IsInf, this]

/-- Rounding a ratio that is a whole number. -/
theorem roundHalfEven_mul (n d : Nat) (h : 0 < d) : roundHalfEven (n * d) d = n := by
  unfold roundHalfEven
  simp only [Nat.mul_div_cancel _ h, Nat.mul_mod_left]
  split
  · omega
  · rfl

end Sys2Proof.Machine
end

