-- ==== Sys2Proof/Laws/Mem.lean ====
section
/-!
SUPPORT. The internal word memories keep their canonical form, and read back what was written.
-/

namespace Sys2Proof.Machine

theorem memWfFrom_mono {lo lo' : Nat} {m : Mem} (h : memWfFrom lo m = true) (hl : lo' ≤ lo) :
    memWfFrom lo' m = true := by
  cases m with
  | nil => rfl
  | cons e m =>
    obtain ⟨a, v⟩ := e
    simp only [memWfFrom, Bool.and_eq_true, decide_eq_true_eq] at h ⊢
    exact ⟨⟨by omega, h.1.2⟩, h.2⟩

/-- Below the bound of a canonical memory everything reads as +0.0. -/
theorem memRead_below {lo : Nat} {m : Mem} (h : memWfFrom lo m = true) {i : Nat} (hi : i < lo) :
    memRead m i = 0#32 := by
  induction m generalizing lo with
  | nil => rfl
  | cons e m ih =>
    obtain ⟨a, v⟩ := e
    simp only [memWfFrom, Bool.and_eq_true, decide_eq_true_eq] at h
    rw [memRead, if_neg (by omega)]
    exact ih h.2 (by omega)

/-- Writing keeps the canonical form. -/
theorem memWrite_wfFrom {lo : Nat} {m : Mem} (h : memWfFrom lo m = true) {i : Nat} (hi : lo ≤ i)
    (v : F32) : memWfFrom lo (memWrite m i v) = true := by
  induction m generalizing lo with
  | nil =>
    unfold memWrite
    split <;> simp_all [memWfFrom]
  | cons e m ih =>
    obtain ⟨a, w⟩ := e
    simp only [memWfFrom, Bool.and_eq_true, decide_eq_true_eq, bne_iff_ne, ne_eq] at h
    obtain ⟨⟨h1, h2⟩, h3⟩ := h
    unfold memWrite
    split
    · split
      · simp [memWfFrom, h1, h2, h3]
      · rename_i hlt hv
        simp [memWfFrom, hi, hv, h2, h3]; omega
    · split
      · split
        · exact memWfFrom_mono h3 (by omega)
        · rename_i hv
          subst i
          simp [memWfFrom, h1, hv, h3]
      · simp only [memWfFrom, Bool.and_eq_true, decide_eq_true_eq, bne_iff_ne, ne_eq]
        exact ⟨⟨h1, h2⟩, ih h3 (by omega)⟩

theorem memWrite_wf {m : Mem} (h : memWf m = true) (i : Nat) (v : F32) : memWf (memWrite m i v) = true :=
  memWrite_wfFrom h (Nat.zero_le i) v

/-- A read after a write of the same word gives the value written. -/
theorem memRead_memWrite_same {lo : Nat} {m : Mem} (h : memWfFrom lo m = true) (i : Nat) (v : F32) :
    memRead (memWrite m i v) i = v := by
  induction m generalizing lo with
  | nil =>
    unfold memWrite
    split <;> simp_all [memRead]
  | cons e m ih =>
    obtain ⟨a, w⟩ := e
    simp only [memWfFrom, Bool.and_eq_true, decide_eq_true_eq] at h
    unfold memWrite
    split
    · split
      · subst v
        rw [memRead, if_neg (by omega)]
        exact memRead_below h.2 (by omega)
      · simp [memRead]
    · split
      · split
        · subst i v
          exact memRead_below h.2 (by omega)
        · simp [memRead]
      · rw [memRead, if_neg (by assumption)]
        exact ih h.2

/-- A write leaves every other word alone. -/
theorem memRead_memWrite_other (m : Mem) {i j : Nat} (v : F32) (hj : j ≠ i) :
    memRead (memWrite m i v) j = memRead m j := by
  induction m with
  | nil =>
    unfold memWrite
    split <;> simp [memRead, hj]
  | cons e m ih =>
    obtain ⟨a, w⟩ := e
    unfold memWrite
    split
    · split
      · rfl
      · rw [memRead, if_neg hj]
    · split
      · split <;> · subst i; simp [memRead, hj]
      · simp only [memRead, ih]

/-- The cells of a sequence are canonical and end before its end. -/
theorem seqCells_wfFrom (i : Nat) (d : List F32) : memWfFrom i (seqCells i d) = true := by
  induction d generalizing i with
  | nil => rfl
  | cons v vs ih =>
    unfold seqCells
    split
    · exact memWfFrom_mono (ih (i + 1)) (by omega)
    · rename_i hv
      simp [memWfFrom, hv, ih (i + 1)]

theorem seqCells_lt (i : Nat) (d : List F32) : ∀ e ∈ seqCells i d, e.1 < i + d.length := by
  induction d generalizing i with
  | nil => simp [seqCells]
  | cons v vs ih =>
    intro e he
    unfold seqCells at he
    simp only [List.length_cons]
    split at he
    · have := ih (i + 1) e he; omega
    · rcases List.mem_cons.mp he with rfl | he
      · simp
      · have := ih (i + 1) e he; omega

theorem memWfFrom_filter {lo n : Nat} {m : Mem} (h : memWfFrom lo m = true) :
    memWfFrom (max lo n) (m.filter fun e => decide (n ≤ e.1)) = true := by
  induction m generalizing lo with
  | nil => rfl
  | cons e m ih =>
    obtain ⟨a, v⟩ := e
    simp only [memWfFrom, Bool.and_eq_true, decide_eq_true_eq] at h
    have := ih h.2
    rw [List.filter_cons]
    split
    · rename_i hn
      simp only [decide_eq_true_eq] at hn
      simp only [memWfFrom, Bool.and_eq_true, decide_eq_true_eq]
      exact ⟨⟨by omega, h.1.2⟩, memWfFrom_mono this (by omega)⟩
    · rename_i hn
      simp only [decide_eq_true_eq] at hn
      exact memWfFrom_mono this (by omega)

theorem memWfFrom_append {lo n : Nat} {a b : Mem} (ha : memWfFrom lo a = true)
    (hlt : ∀ e ∈ a, e.1 < n) (hln : lo ≤ n) (hb : memWfFrom n b = true) :
    memWfFrom lo (a ++ b) = true := by
  induction a generalizing lo with
  | nil => exact memWfFrom_mono hb hln
  | cons e a ih =>
    obtain ⟨i, v⟩ := e
    simp only [memWfFrom, Bool.and_eq_true, decide_eq_true_eq] at ha
    simp only [List.cons_append, memWfFrom, Bool.and_eq_true, decide_eq_true_eq]
    have hi := hlt (i, v) (by simp)
    exact ⟨ha.1, ih ha.2 (fun e he => hlt e (List.mem_cons_of_mem _ he)) (by omega)⟩

/-- Storing a sequence keeps the canonical form. -/
theorem memStoreSeq_wf {m : Mem} (h : memWf m = true) (d : List F32) :
    memWf (memStoreSeq m d) = true := by
  refine memWfFrom_append (n := d.length) (seqCells_wfFrom 0 d) ?_ (Nat.zero_le _) ?_
  · intro e he; have := seqCells_lt 0 d e he; omega
  · exact memWfFrom_mono (memWfFrom_filter (n := d.length) h) (by omega)

/-- The cells of a sequence read as the sequence. -/
theorem memRead_seqCells (d : List F32) : ∀ i j,
    memRead (seqCells i d) (i + j) = if h : j < d.length then d[j] else 0#32 := by
  induction d with
  | nil => intro i j; simp [seqCells, memRead]
  | cons v vs ih =>
    intro i j
    simp only [seqCells]
    have key : memRead (seqCells (i+1) vs) i = 0#32 :=
      memRead_below (seqCells_wfFrom (i+1) vs) (by omega)
    cases j with
    | zero =>
      split
      · rename_i h; subst h; simp [key]
      · simp [memRead]
    | succ j =>
      have := ih (i+1) j
      have e : i + 1 + j = i + (j+1) := by omega
      rw [e] at this
      split
      · rw [this]; simp
      · simp only [memRead]; rw [if_neg (by omega), this]; simp

theorem memRead_append_right (a b : Mem) (j : Nat) (h : ∀ e ∈ a, e.1 ≠ j) :
    memRead (a ++ b) j = memRead b j := by
  induction a with
  | nil => rfl
  | cons e a ih =>
    obtain ⟨x, v⟩ := e
    simp only [List.cons_append, memRead]
    have := h (x, v) (by simp)
    rw [if_neg (by simpa using fun h => this h.symm)]
    exact ih (fun e he => h e (by simp [he]))

theorem memRead_append_left (a b : Mem) (j : Nat) (h : ∀ e ∈ b, e.1 ≠ j) :
    memRead (a ++ b) j = memRead a j := by
  induction a with
  | nil =>
    simp only [List.nil_append]
    induction b with
    | nil => rfl
    | cons e b ih =>
      obtain ⟨x, v⟩ := e
      have := h (x, v) (by simp)
      simp only [memRead]
      rw [if_neg (by simpa using fun h => this h.symm)]
      exact ih (fun e he => h e (by simp [he]))
  | cons e a ih =>
    obtain ⟨x, v⟩ := e
    simp only [List.cons_append, memRead, ih]

theorem memRead_filter (m : Mem) (n j : Nat) (h : n ≤ j) :
    memRead (m.filter fun e => decide (n ≤ e.1)) j = memRead m j := by
  induction m with
  | nil => rfl
  | cons e m ih =>
    obtain ⟨x, v⟩ := e
    by_cases hx : n ≤ x
    · simp [hx, memRead, ih]
    · have hj : ¬ j = x := by omega
      simp [hx, memRead, ih, hj]

/-- A stored sequence reads back in the first words; the words beyond it keep their contents. -/
theorem memRead_memStoreSeq (m : Mem) (d : List F32) (j : Nat) :
    memRead (memStoreSeq m d) j = if h : j < d.length then d[j] else memRead m j := by
  unfold memStoreSeq
  split
  · rename_i h
    rw [memRead_append_left]
    · have := memRead_seqCells d 0 j; simp only [Nat.zero_add] at this; rw [this, dif_pos h]
    · intro e he; simp only [List.mem_filter, decide_eq_true_eq] at he; omega
  · rename_i h
    rw [memRead_append_right, memRead_filter _ _ _ (by omega)]
    intro e he
    have := seqCells_lt 0 d e he
    omega

@[simp] theorem memPrefix_length (m : Mem) (n : Nat) : (memPrefix m n).length = n := by
  simp [memPrefix]

/-- The memories of the reset state have the canonical form. -/
theorem reset_mem_wf (c : Ch) :
    memWf (State.reset.ch.get c).acc = true ∧ memWf (State.reset.ch.get c).ob.data = true := by
  cases c <;> exact ⟨rfl, rfl⟩

end Sys2Proof.Machine
end

