-- ==== Sys2Proof/Laws/Params.lean ====
section
/-!
SUPPORT. What the decibel parameter and its tolerance can be, said once (43_spectrum R343).
-/

namespace Sys2Proof.Machine

/-- What `dbFirst` finds fits. -/
theorem dbFirst_fits {tol : ℚ} {m v : F32} (h : dbFirst tol m = some v) : dbFits tol m v = true :=
  List.find?_some h

/-- `dbFirst` finds something wherever something fits. -/
theorem dbFirst_isSome {tol : ℚ} {m v : F32} (h : dbFits tol m v = true) : (dbFirst tol m).isSome = true := by
  unfold dbFirst
  rw [List.find?_isSome]
  refine ⟨v, List.mem_map.mpr ⟨v.toNat, List.mem_range.mpr v.isLt, ?_⟩, h⟩
  simp

/-- DB_TOL is an allowed parameter, or its largest value. -/
theorem dbTol_cases :
    (dbTolAllowed Config.dbTolRaw = true ∧ dbTol = Config.dbTolRaw) ∨
    (dbTolAllowed Config.dbTolRaw = false ∧ dbTol = 1 / 100) := by
  unfold dbTol
  split <;> simp_all

/-- A candidate is the parameter's value, which fits, or the first value that does. -/
theorem dbCandidate_cases (m : F32) :
    (dbFits dbTol m (Config.db20Raw m) = true ∧ dbCandidate m = Config.db20Raw m) ∨
    (dbFits dbTol m (Config.db20Raw m) = false ∧ dbCandidate m = (dbFirst dbTol m).getD f32Zero) := by
  unfold dbCandidate
  split <;> simp_all

end Sys2Proof.Machine
end

