-- ==== Sys2Proof/Laws/PerInstr.lean ====
section
/-!
SUPPORT. The encoder agrees with the opcode table, row by row: the encoding of every instruction, masked with
its row's mask, is its row's match.
-/

namespace Sys2Proof.Laws.TableRow

open Sys2Proof Sys2Proof.Machine

/-- The bits of a transfer that the opcode table numbers: a command word's 32, and the 17 bits WE over ADDR
of a bus access (30_encoding R141, R143). -/
def tableBits : Transfer → Nat
  | .bus (.access w) => w.toNat % 2 ^ 17
  | .bus (.command w) => w.toNat
  | .streamIn f => f.toNat
  | .streamOut => 0

/-- The mask and match of an instruction's row, as spec/opcode_table.json has them; `none` for a row that
fixes no bit. -/
def tableRow : Instr → Option (Nat × Nat)
  | .nop => some (0xFFFFFFFF, 0x00000000)
  | .commit => some (0xFFFFFFFF, 0x01000000)
  | .prepare => some (0xFFFFFFFF, 0x02000000)
  | .clearState => some (0xFFFFFFFF, 0x03000000)
  | .setFftOrder _ => some (0xFFFFFFF0, 0x04000000)
  | .pullFrame _ => some (0xFFFFFFFE, 0x05000000)
  | .pullLatest _ => some (0xFFFFFFFE, 0x06000000)
  | .cmdReserved _ => none
  | .busReadChecks _ => some (0x10000, 0x00000)
  | .busWriteChecks _ _ _ => some (0x10000, 0x10000)
  | .rdId => some (0x1FFFF, 0x00000)
  | .wrId _ _ => some (0x1FFFF, 0x10000)
  | .rdParams => some (0x1FFFF, 0x00004)
  | .wrParams _ _ => some (0x1FFFF, 0x10004)
  | .rdCtrl => some (0x1FFFF, 0x00008)
  | .wrCtrl _ _ => some (0x1FFFF, 0x10008)
  | .rdChainCfg => some (0x1FFFF, 0x0000C)
  | .wrChainCfg _ _ => some (0x1FFFF, 0x1000C)
  | .rdChainLive => some (0x1FFFF, 0x00010)
  | .wrChainLive _ _ => some (0x1FFFF, 0x10010)
  | .rdStatus => some (0x1FFFF, 0x00014)
  | .wrStatus _ _ => some (0x1FFFF, 0x10014)
  | .rdCmd => some (0x1FFFF, 0x00018)
  | .wrCmd _ _ => some (0x1FFFF, 0x10018)
  | .rdCmdResult => some (0x1FFFF, 0x0001C)
  | .wrCmdResult _ _ => some (0x1FFFF, 0x1001C)
  | .rdFftCfg => some (0x1FFFF, 0x00020)
  | .wrFftCfg _ _ => some (0x1FFFF, 0x10020)
  | .rdAccLen => some (0x1FFFF, 0x00024)
  | .wrAccLen _ _ => some (0x1FFFF, 0x10024)
  | .rdAccLenLive => some (0x1FFFF, 0x00028)
  | .wrAccLenLive _ _ => some (0x1FFFF, 0x10028)
  | .rdSilenceFloor => some (0x1FFFF, 0x0002C)
  | .wrSilenceFloor _ _ => some (0x1FFFF, 0x1002C)
  | .rdErrInfo => some (0x1FFFF, 0x00060)
  | .wrErrInfo _ _ => some (0x1FFFF, 0x10060)
  | .rdFifoaLevel _ => some (0x1FFFB, 0x00030)
  | .wrFifoaLevel _ _ _ => some (0x1FFFB, 0x10030)
  | .rdFifobLevel _ => some (0x1FFFB, 0x00038)
  | .wrFifobLevel _ _ _ => some (0x1FFFB, 0x10038)
  | .rdFifoaPtr _ => some (0x1FFFB, 0x00040)
  | .wrFifoaPtr _ _ _ => some (0x1FFFB, 0x10040)
  | .rdFifobPtr _ => some (0x1FFFB, 0x00048)
  | .wrFifobPtr _ _ _ => some (0x1FFFB, 0x10048)
  | .rdOutbufInfo _ => some (0x1FFFB, 0x00050)
  | .wrOutbufInfo _ _ _ => some (0x1FFFB, 0x10050)
  | .rdHistCnt _ => some (0x1FFFB, 0x00058)
  | .wrHistCnt _ _ _ => some (0x1FFFB, 0x10058)
  | .rdCoefS07 _ _ => some (0x1FF03, 0x00100)
  | .rdCoefS8 _ => some (0x1FFE3, 0x00200)
  | .wrCoefS07 _ _ _ _ => some (0x1FF03, 0x10100)
  | .wrCoefS8 _ _ _ => some (0x1FFE3, 0x10200)
  | .rdCoefLiveS07 _ _ => some (0x1FF03, 0x00300)
  | .rdCoefLiveS8 _ => some (0x1FFE3, 0x00400)
  | .wrCoefLiveS07 _ _ _ _ => some (0x1FF03, 0x10300)
  | .wrCoefLiveS8 _ _ _ => some (0x1FFE3, 0x10400)
  | .rdOutbuf0 _ => some (0x1C003, 0x04000)
  | .wrOutbuf0 _ _ _ => some (0x1C003, 0x14000)
  | .rdOutbuf1 _ => some (0x1C003, 0x08000)
  | .wrOutbuf1 _ _ _ => some (0x1C003, 0x18000)
  | .busUnmapped _ _ => none
  | .frame _ _ _ => none
  | .take => none
  | .ingest _ _ => none
  | .apply => none
  | .syncAck => none
  | .syncW2R _ => none
  | .syncR2W _ => none
  | .fftStep _ => none

/-- The encoding of `i` matches its row of the opcode table. -/
def Statement (i : Instr) : Prop :=
  ∀ t mask bits, encode i = some t → tableRow i = some (mask, bits) → tableBits t &&& mask = bits

/-! ## Lemmas -/

theorem readWord_bits (a : Addr) : (readWord a).toNat % 2 ^ 17 = a.toNat := by
  have := a.isLt
  simp only [readWord, BitVec.toNat_append, BitVec.toNat_ofNat, Nat.zero_mod, Nat.zero_shiftLeft,
    Nat.zero_or]
  omega

theorem writeWord_bits (a : Addr) (st : Strobes) (v : Word) :
    (writeWord a st v).toNat % 2 ^ 17 = 2 ^ 16 + a.toNat := by
  have := a.isLt
  have h1 : (writeWord a st v).toNat = ((v ++ (~~~ st) ++ 1#1).toNat) * 2 ^ 16 + a.toNat := by
    rw [writeWord, BitVec.toNat_append, ← Nat.shiftLeft_add_eq_or_of_lt this, Nat.shiftLeft_eq]
  have h2 : (v ++ (~~~ st) ++ 1#1).toNat = (v ++ (~~~ st)).toNat * 2 + 1 := by
    rw [BitVec.toNat_append, ← Nat.shiftLeft_add_eq_or_of_lt (by decide), Nat.shiftLeft_eq]
    rfl
  rw [h1, h2]
  omega

theorem ofNone {i : Instr} (h : tableRow i = none) : Statement i := by
  intro t mask bits _ hr
  rw [h] at hr
  cases hr

theorem ofRow {i : Instr} {t : Transfer} {mask bits : Nat} (he : encode i = some t)
    (hr : tableRow i = some (mask, bits)) (h : tableBits t &&& mask = bits) : Statement i := by
  intro t' mask' bits' he' hr'
  rw [he] at he'
  rw [hr] at hr'
  cases he'
  cases hr'
  exact h

theorem ofRead {i : Instr} {mask bits : Nat} (a : Addr) (he : encode i = some (encodeAccess .rd a))
    (hr : tableRow i = some (mask, bits)) (h : a.toNat &&& mask = bits) : Statement i :=
  ofRow he hr (by rw [encodeAccess, tableBits, readWord_bits]; exact h)

theorem ofWrite {i : Instr} {mask bits : Nat} (a : Addr) (st : Strobes) (v : Word)
    (he : encode i = some (encodeAccess (.wr st v) a)) (hr : tableRow i = some (mask, bits))
    (h : (2 ^ 16 + a.toNat) &&& mask = bits) : Statement i :=
  ofRow he hr (by rw [encodeAccess, tableBits, writeWord_bits]; exact h)

theorem read_checks (a : Addr) : a.toNat &&& 0x10000 = 0x00000 := by
  rw [show (0x10000 : Nat) = 2 ^ 16 from rfl, Nat.and_two_pow,
    Nat.testBit_lt_two_pow a.isLt]
  rfl

theorem write_checks (a : Addr) : (2 ^ 16 + a.toNat) &&& 0x10000 = 0x10000 := by
  rw [show (0x10000 : Nat) = 2 ^ 16 from rfl, Nat.and_two_pow, Nat.testBit_two_pow_add_eq,
    Nat.testBit_lt_two_pow a.isLt]
  rfl

theorem outbuf0_bits : ∀ j : BitVec 12, (regAddr (.outbuf .left j)).toNat &&& 0x1C003 = 0x04000 := by
  decide +kernel

theorem outbuf0_bits_wr : ∀ j : BitVec 12,
    (2 ^ 16 + (regAddr (.outbuf .left j)).toNat) &&& 0x1C003 = 0x14000 := by
  decide +kernel

theorem outbuf1_bits : ∀ j : BitVec 12, (regAddr (.outbuf .right j)).toNat &&& 0x1C003 = 0x08000 := by
  decide +kernel

theorem outbuf1_bits_wr : ∀ j : BitVec 12,
    (2 ^ 16 + (regAddr (.outbuf .right j)).toNat) &&& 0x1C003 = 0x18000 := by
  decide +kernel

/-! ## One lemma for each constructor -/

theorem nop : Statement .nop := ofRow rfl rfl (by decide)

theorem commit : Statement .commit := ofRow rfl rfl (by decide)

theorem prepare : Statement .prepare := ofRow rfl rfl (by decide)

theorem clearState : Statement .clearState := ofRow rfl rfl (by decide)

theorem setFftOrder (ord : BitVec 4) :
    Statement (.setFftOrder ord) := ofRow rfl rfl (by revert ord; decide)

theorem pullFrame (c : Ch) : Statement (.pullFrame c) := ofRow rfl rfl (by cases c <;> decide)

theorem pullLatest (c : Ch) : Statement (.pullLatest c) := ofRow rfl rfl (by cases c <;> decide)

theorem cmdReserved (w : Word) : Statement (.cmdReserved w) := ofNone rfl

theorem busReadChecks (a : Addr) :
    Statement (.busReadChecks a) := ofRead a rfl rfl (read_checks a)

theorem busWriteChecks (a : Addr) (st : Strobes) (v : Word) :
    Statement (.busWriteChecks a st v) := ofWrite a st v rfl rfl (write_checks a)

theorem rdId : Statement .rdId := ofRead _ rfl rfl (by decide)

theorem wrId (st : Strobes) (v : Word) :
    Statement (.wrId st v) := ofWrite _ st v rfl rfl (by decide)

theorem rdParams : Statement .rdParams := ofRead _ rfl rfl (by decide)

theorem wrParams (st : Strobes) (v : Word) :
    Statement (.wrParams st v) := ofWrite _ st v rfl rfl (by decide)

theorem rdCtrl : Statement .rdCtrl := ofRead _ rfl rfl (by decide)

theorem wrCtrl (st : Strobes) (v : Word) :
    Statement (.wrCtrl st v) := ofWrite _ st v rfl rfl (by decide)

theorem rdChainCfg : Statement .rdChainCfg := ofRead _ rfl rfl (by decide)

theorem wrChainCfg (st : Strobes) (v : Word) :
    Statement (.wrChainCfg st v) := ofWrite _ st v rfl rfl (by decide)

theorem rdChainLive : Statement .rdChainLive := ofRead _ rfl rfl (by decide)

theorem wrChainLive (st : Strobes) (v : Word) :
    Statement (.wrChainLive st v) := ofWrite _ st v rfl rfl (by decide)

theorem rdStatus : Statement .rdStatus := ofRead _ rfl rfl (by decide)

theorem wrStatus (st : Strobes) (v : Word) :
    Statement (.wrStatus st v) := ofWrite _ st v rfl rfl (by decide)

theorem rdCmd : Statement .rdCmd := ofRead _ rfl rfl (by decide)

theorem wrCmd (st : Strobes) (v : Word) :
    Statement (.wrCmd st v) := ofWrite _ st v rfl rfl (by decide)

theorem rdCmdResult : Statement .rdCmdResult := ofRead _ rfl rfl (by decide)

theorem wrCmdResult (st : Strobes) (v : Word) :
    Statement (.wrCmdResult st v) := ofWrite _ st v rfl rfl (by decide)

theorem rdFftCfg : Statement .rdFftCfg := ofRead _ rfl rfl (by decide)

theorem wrFftCfg (st : Strobes) (v : Word) :
    Statement (.wrFftCfg st v) := ofWrite _ st v rfl rfl (by decide)

theorem rdAccLen : Statement .rdAccLen := ofRead _ rfl rfl (by decide)

theorem wrAccLen (st : Strobes) (v : Word) :
    Statement (.wrAccLen st v) := ofWrite _ st v rfl rfl (by decide)

theorem rdAccLenLive : Statement .rdAccLenLive := ofRead _ rfl rfl (by decide)

theorem wrAccLenLive (st : Strobes) (v : Word) :
    Statement (.wrAccLenLive st v) := ofWrite _ st v rfl rfl (by decide)

theorem rdSilenceFloor : Statement .rdSilenceFloor := ofRead _ rfl rfl (by decide)

theorem wrSilenceFloor (st : Strobes) (v : Word) :
    Statement (.wrSilenceFloor st v) := ofWrite _ st v rfl rfl (by decide)

theorem rdErrInfo : Statement .rdErrInfo := ofRead _ rfl rfl (by decide)

theorem wrErrInfo (st : Strobes) (v : Word) :
    Statement (.wrErrInfo st v) := ofWrite _ st v rfl rfl (by decide)

theorem rdFifoaLevel (c : Ch) :
    Statement (.rdFifoaLevel c) := ofRead _ rfl rfl (by cases c <;> decide)

theorem wrFifoaLevel (c : Ch) (st : Strobes) (v : Word) :
    Statement (.wrFifoaLevel c st v) := ofWrite _ st v rfl rfl (by cases c <;> decide)

theorem rdFifobLevel (c : Ch) :
    Statement (.rdFifobLevel c) := ofRead _ rfl rfl (by cases c <;> decide)

theorem wrFifobLevel (c : Ch) (st : Strobes) (v : Word) :
    Statement (.wrFifobLevel c st v) := ofWrite _ st v rfl rfl (by cases c <;> decide)

theorem rdFifoaPtr (c : Ch) :
    Statement (.rdFifoaPtr c) := ofRead _ rfl rfl (by cases c <;> decide)

theorem wrFifoaPtr (c : Ch) (st : Strobes) (v : Word) :
    Statement (.wrFifoaPtr c st v) := ofWrite _ st v rfl rfl (by cases c <;> decide)

theorem rdFifobPtr (c : Ch) :
    Statement (.rdFifobPtr c) := ofRead _ rfl rfl (by cases c <;> decide)

theorem wrFifobPtr (c : Ch) (st : Strobes) (v : Word) :
    Statement (.wrFifobPtr c st v) := ofWrite _ st v rfl rfl (by cases c <;> decide)

theorem rdOutbufInfo (c : Ch) :
    Statement (.rdOutbufInfo c) := ofRead _ rfl rfl (by cases c <;> decide)

theorem wrOutbufInfo (c : Ch) (st : Strobes) (v : Word) :
    Statement (.wrOutbufInfo c st v) := ofWrite _ st v rfl rfl (by cases c <;> decide)

theorem rdHistCnt (c : Ch) :
    Statement (.rdHistCnt c) := ofRead _ rfl rfl (by cases c <;> decide)

theorem wrHistCnt (c : Ch) (st : Strobes) (v : Word) :
    Statement (.wrHistCnt c st v) := ofWrite _ st v rfl rfl (by cases c <;> decide)

theorem rdCoefS07 (s : BitVec 3) (k : Tap) :
    Statement (.rdCoefS07 s k) := ofRead _ rfl rfl (by cases k <;> revert s <;> decide)

theorem rdCoefS8 (k : Tap) :
    Statement (.rdCoefS8 k) := ofRead _ rfl rfl (by cases k <;> decide)

theorem wrCoefS07 (s : BitVec 3) (k : Tap) (st : Strobes) (v : Word) :
    Statement (.wrCoefS07 s k st v) := ofWrite _ st v rfl rfl (by cases k <;> revert s <;> decide)

theorem wrCoefS8 (k : Tap) (st : Strobes) (v : Word) :
    Statement (.wrCoefS8 k st v) := ofWrite _ st v rfl rfl (by cases k <;> decide)

theorem rdCoefLiveS07 (s : BitVec 3) (k : Tap) :
    Statement (.rdCoefLiveS07 s k) := ofRead _ rfl rfl (by cases k <;> revert s <;> decide)

theorem rdCoefLiveS8 (k : Tap) :
    Statement (.rdCoefLiveS8 k) := ofRead _ rfl rfl (by cases k <;> decide)

theorem wrCoefLiveS07 (s : BitVec 3) (k : Tap) (st : Strobes) (v : Word) :
    Statement (.wrCoefLiveS07 s k st v) := ofWrite _ st v rfl rfl (by cases k <;> revert s <;> decide)

theorem wrCoefLiveS8 (k : Tap) (st : Strobes) (v : Word) :
    Statement (.wrCoefLiveS8 k st v) := ofWrite _ st v rfl rfl (by cases k <;> decide)

theorem rdOutbuf0 (j : BitVec 12) :
    Statement (.rdOutbuf0 j) := ofRead _ rfl rfl (outbuf0_bits j)

theorem wrOutbuf0 (j : BitVec 12) (st : Strobes) (v : Word) :
    Statement (.wrOutbuf0 j st v) := ofWrite _ st v rfl rfl (outbuf0_bits_wr j)

theorem rdOutbuf1 (j : BitVec 12) :
    Statement (.rdOutbuf1 j) := ofRead _ rfl rfl (outbuf1_bits j)

theorem wrOutbuf1 (j : BitVec 12) (st : Strobes) (v : Word) :
    Statement (.wrOutbuf1 j st v) := ofWrite _ st v rfl rfl (outbuf1_bits_wr j)

theorem busUnmapped (acc : Access) (a : Addr) : Statement (.busUnmapped acc a) := ofNone rfl

theorem frame (last : Bool) (d1 : F32) (d0 : F32) : Statement (.frame last d1 d0) := ofNone rfl

theorem take : Statement .take := ofNone rfl

theorem ingest (c : Ch) (v : F32) : Statement (.ingest c v) := ofNone rfl

theorem apply : Statement .apply := ofNone rfl

theorem syncAck : Statement .syncAck := ofNone rfl

theorem syncW2R (c : Ch) : Statement (.syncW2R c) := ofNone rfl

theorem syncR2W (c : Ch) : Statement (.syncR2W c) := ofNone rfl

theorem fftStep (c : Ch) : Statement (.fftStep c) := ofNone rfl

end Sys2Proof.Laws.TableRow
end

