-- ==== Sys2Proof/Tests/Slice0.lean ====
section
/-!
SUPPORT. Tests: the checks of WellFormed refuse ill-formed terms, words written out from the encoding tables
decode to their instructions, single steps agree with the vectors of 95_test_vectors, and each
statement's hypotheses are met together, at the ends of their ranges.
-/

namespace Sys2Proof.Tests

set_option Elab.async false

open Sys2Proof Sys2Proof.Machine Sys2Proof.Safety

/-! ## WellFormed refuses -/

theorem test_wf_busReadChecks_aligned : Instr.wf (.busReadChecks 0x0004#16) = false := by decide

theorem test_wf_busWriteChecks_aligned :
    Instr.wf (.busWriteChecks 0x0008#16 0x3#4 0#32) = false := by decide

theorem test_wf_busUnmapped_mapped : Instr.wf (.busUnmapped .rd 0x0060#16) = false := by decide

theorem test_wf_busUnmapped_misaligned : Instr.wf (.busUnmapped .rd 0x0066#16) = false := by decide

theorem test_wf_cmdReserved_legal : Instr.wf (.cmdReserved 0x0400000F#32) = false := by decide

/-! ## Decoding (30_encoding R141 to R146, 44_control R407) -/

/-- Words of 30_encoding R145 and R146. -/
theorem test_decode_commands :
    decodeTableWord 32 0x00000000 = some .nop ∧
    decodeTableWord 32 0x01000000 = some .commit ∧
    decodeTableWord 32 0x02000000 = some .prepare ∧
    decodeTableWord 32 0x03000000 = some .clearState ∧
    decodeTableWord 32 0x0400000D = some (.setFftOrder 13#4) ∧
    decodeTableWord 32 0x05000001 = some (.pullFrame .right) ∧
    decodeTableWord 32 0x06000000 = some (.pullLatest .left) ∧
    decodeTableWord 32 0x00000001 = some (.cmdReserved 0x00000001#32) ∧
    decodeTableWord 32 0x0400001C = some (.cmdReserved 0x0400001C#32) ∧
    decodeTableWord 32 0x07000000 = some (.cmdReserved 0x07000000#32) := by decide

/-- WE = 0, ADDR as in 44_control R407. -/
theorem test_decode_reads :
    decodeTableWord 24 0x00000 = some .rdId ∧
    decodeTableWord 24 0x00004 = some .rdParams ∧
    decodeTableWord 24 0x00008 = some .rdCtrl ∧
    decodeTableWord 24 0x0000C = some .rdChainCfg ∧
    decodeTableWord 24 0x00010 = some .rdChainLive ∧
    decodeTableWord 24 0x00014 = some .rdStatus ∧
    decodeTableWord 24 0x00018 = some .rdCmd ∧
    decodeTableWord 24 0x0001C = some .rdCmdResult ∧
    decodeTableWord 24 0x00020 = some .rdFftCfg ∧
    decodeTableWord 24 0x00024 = some .rdAccLen ∧
    decodeTableWord 24 0x00028 = some .rdAccLenLive ∧
    decodeTableWord 24 0x0002C = some .rdSilenceFloor ∧
    decodeTableWord 24 0x00060 = some .rdErrInfo := by decide

/-- WE = 1, ADDR as in 44_control R407; the bits above the table's 17 are zero. -/
theorem test_decode_writes :
    decodeTableWord 24 0x10000 = some (.wrId 0xF#4 0#32) ∧
    decodeTableWord 24 0x10004 = some (.wrParams 0xF#4 0#32) ∧
    decodeTableWord 24 0x10008 = some (.wrCtrl 0xF#4 0#32) ∧
    decodeTableWord 24 0x1000C = some (.wrChainCfg 0xF#4 0#32) ∧
    decodeTableWord 24 0x10010 = some (.wrChainLive 0xF#4 0#32) ∧
    decodeTableWord 24 0x10014 = some (.wrStatus 0xF#4 0#32) ∧
    decodeTableWord 24 0x10018 = some (.wrCmd 0xF#4 0#32) ∧
    decodeTableWord 24 0x1001C = some (.wrCmdResult 0xF#4 0#32) ∧
    decodeTableWord 24 0x10020 = some (.wrFftCfg 0xF#4 0#32) ∧
    decodeTableWord 24 0x10024 = some (.wrAccLen 0xF#4 0#32) ∧
    decodeTableWord 24 0x10028 = some (.wrAccLenLive 0xF#4 0#32) ∧
    decodeTableWord 24 0x1002C = some (.wrSilenceFloor 0xF#4 0#32) ∧
    decodeTableWord 24 0x10060 = some (.wrErrInfo 0xF#4 0#32) := by decide

/-- ADDR[2] is the channel. -/
theorem test_decode_channel_reads :
    decodeTableWord 24 0x00030 = some (.rdFifoaLevel .left) ∧
    decodeTableWord 24 0x0003C = some (.rdFifobLevel .right) ∧
    decodeTableWord 24 0x00040 = some (.rdFifoaPtr .left) ∧
    decodeTableWord 24 0x0004C = some (.rdFifobPtr .right) ∧
    decodeTableWord 24 0x00054 = some (.rdOutbufInfo .right) ∧
    decodeTableWord 24 0x00058 = some (.rdHistCnt .left) := by decide

theorem test_decode_channel_writes :
    decodeTableWord 24 0x10034 = some (.wrFifoaLevel .right 0xF#4 0#32) ∧
    decodeTableWord 24 0x10038 = some (.wrFifobLevel .left 0xF#4 0#32) ∧
    decodeTableWord 24 0x10044 = some (.wrFifoaPtr .right 0xF#4 0#32) ∧
    decodeTableWord 24 0x10048 = some (.wrFifobPtr .left 0xF#4 0#32) ∧
    decodeTableWord 24 0x10050 = some (.wrOutbufInfo .left 0xF#4 0#32) ∧
    decodeTableWord 24 0x1005C = some (.wrHistCnt .right 0xF#4 0#32) := by decide

/-- Section s at 0x20 * s, tap k at 4 * k, from 0x0100 and 0x0300. -/
theorem test_decode_coefficients :
    decodeTableWord 24 0x00124 = some (.rdCoefS07 1#3 .b1) ∧
    decodeTableWord 24 0x101F0 = some (.wrCoefS07 7#3 .a2 0xF#4 0#32) ∧
    decodeTableWord 24 0x00208 = some (.rdCoefS8 .b2) ∧
    decodeTableWord 24 0x10200 = some (.wrCoefS8 .b0 0xF#4 0#32) ∧
    decodeTableWord 24 0x0038C = some (.rdCoefLiveS07 4#3 .a1) ∧
    decodeTableWord 24 0x10300 = some (.wrCoefLiveS07 0#3 .b0 0xF#4 0#32) ∧
    decodeTableWord 24 0x00410 = some (.rdCoefLiveS8 .a2) ∧
    decodeTableWord 24 0x10404 = some (.wrCoefLiveS8 .b1 0xF#4 0#32) ∧
    decodeTableWord 24 0x00114 = some (.busUnmapped .rd 0x0114#16) := by decide +kernel

/-- OUTBUF from 0x4000 and 0x8000. -/
theorem test_decode_outbuf :
    decodeTableWord 24 0x04000 = some (.rdOutbuf0 0#12) ∧
    decodeTableWord 24 0x17FFC = some (.wrOutbuf0 0xFFF#12 0xF#4 0#32) ∧
    decodeTableWord 24 0x08FFC = some (.rdOutbuf1 0x3FF#12) ∧
    decodeTableWord 24 0x18000 = some (.wrOutbuf1 0#12 0xF#4 0#32) ∧
    decodeTableWord 24 0x0C000 = some (.busUnmapped .rd 0xC000#16) := by decide

/-- Misaligned addresses, and a whole access with strobes 0b0011 and data 0x80000001 (log 2). -/
theorem test_decode_accesses :
    decodeTableWord 24 0x00063 = some (.busReadChecks 0x0063#16) ∧
    decodeTableWord 24 0x10002 = some (.busWriteChecks 0x0002#16 0xF#4 0#32) ∧
    decodeTableWord 56 (0x80000001 * 2 ^ 21 + 0xC * 2 ^ 17 + 0x10008) =
      some (.wrCtrl 0x3#4 0x80000001#32) ∧
    decodeTableWord 56 (0x80000001 * 2 ^ 21 + 0xC * 2 ^ 17 + 0x00008) = some .rdCtrl := by decide

/-- P1's second frame, 1:40000000:3F800000; no word stands for an internal step. -/
theorem test_decode_frame :
    decodeTableWord 72 0x1400000003F800000 = some (.frame true 0x40000000#32 0x3F800000#32) ∧
    decode .streamOut = .take ∧ encode (.apply) = none ∧ encode (.fftStep .left) = none := by decide

/-! ## Single steps against the vectors of 95_test_vectors -/

/-- The next state's view, for the tests. -/
def seen {α : Type} (f : State → α) : Host.Outcome State Fault Refusal → Option α
  | .next t => some (f t)
  | _ => none

/-- The coefficients of V2.1's impulse response. -/
def impulseTaps : Taps := ⟨0x3F000000#32, 0x3E800000#32, 0x3E000000#32, 0xBF000000#32, 0x3E800000#32⟩

/-- The inexact coefficients of V2.1's step response. -/
def stepTaps : Taps := ⟨0x3DCCCCCD#32, 0x3E4CCCCD#32, 0x3DCCCCCD#32, 0xBFC00000#32, 0x3F19999A#32⟩

/-- V2.1, impulse response, rows 0, 1, 2 and 4. -/
theorem test_bq_impulse :
    bq impulseTaps Delay.zero 0x3F800000#32 = (0x3F000000#32, ⟨0x3F000000#32, 0#32⟩) ∧
    bq impulseTaps ⟨0x3F000000#32, 0#32⟩ 0#32 = (0x3F000000#32, ⟨0x3E800000#32, 0xBE000000#32⟩) ∧
    bq impulseTaps ⟨0x3E800000#32, 0xBE000000#32⟩ 0#32 = (0x3E800000#32, ⟨0#32, 0xBD800000#32⟩) ∧
    bq impulseTaps ⟨0xBD800000#32, 0#32⟩ 0#32 = (0xBD800000#32, ⟨0xBD000000#32, 0x3C800000#32⟩) := by
  decide +kernel

/-- V2.1, step response with inexact coefficients. -/
theorem test_bq_rounding :
    bq stepTaps Delay.zero 0x3F800000#32 = (0x3DCCCCCD#32, ⟨0x3EB33334#32, 0x3D23D70A#32⟩) ∧
    bq stepTaps ⟨0x3EB33334#32, 0x3D23D70A#32⟩ 0x3F800000#32 =
      (0x3EE66667#32, ⟨0x3F6A3D71#32, 0xBE2E147C#32⟩) ∧
    bq stepTaps ⟨0x3F6A3D71#32, 0xBE2E147C#32⟩ 0x3F800000#32 =
      (0x3F81EB85#32, ⟨0x3FC6B852#32, 0xBF024DD3#32⟩) ∧
    bq stepTaps ⟨0x3FC6B852#32, 0xBF024DD3#32⟩ 0x3F800000#32 =
      (0x3FD3851F#32, ⟨0x400ADD2F#32, 0xBF643959#32⟩) := by
  decide +kernel

/-- A section with B0 alone. -/
def gain (b0 : F32) : Taps := ⟨b0, 0#32, 0#32, 0#32, 0#32⟩

/-- V2.1, corner cases. -/
theorem test_bq_corners :
    bq Taps.identity Delay.zero 0x80000000#32 = (0#32, ⟨0#32, 0x80000000#32⟩) ∧
    bq Taps.identity Delay.zero 0x7F800000#32 = (0x7F800000#32, ⟨0x7FC00000#32, 0x7FC00000#32⟩) ∧
    bq Taps.identity Delay.zero 0x7FC00001#32 = (0x7FC00000#32, ⟨0x7FC00000#32, 0x7FC00000#32⟩) ∧
    bq Taps.identity Delay.zero 0x00000001#32 = (0x00000001#32, ⟨0#32, 0#32⟩) ∧
    bq (gain 0x40000000#32) Delay.zero 0x7F000000#32 =
      (0x7F800000#32, ⟨0x7FC00000#32, 0x7FC00000#32⟩) ∧
    bq (gain 0x3F000000#32) Delay.zero 0x00000001#32 = (0#32, ⟨0#32, 0#32⟩) ∧
    bq (gain 0x3F000000#32) Delay.zero 0x00000003#32 = (0x00000002#32, ⟨0#32, 0#32⟩) ∧
    bq (gain 0#32) Delay.zero 0x7F800000#32 = (0x7FC00000#32, ⟨0x7FC00000#32, 0x7FC00000#32⟩) ∧
    (bq (gain 0xBF800000#32) Delay.zero 0#32).1 = 0#32 := by
  decide +kernel

/-- The coefficient file of V2.1's chain. -/
def halves (v : Word) : CoefFile :=
  ⟨#v[gain 0x3F000000#32, gain 0x3F000000#32, gain 0x3F000000#32, gain 0x3F000000#32,
     Taps.identity, Taps.identity, Taps.identity, Taps.identity, Taps.identity], cfgOfWord v⟩

/-- V2.1, chain, by the value of CHAIN_CFG. -/
theorem test_chain_slopes :
    (chain (halves 0x006#32) Chan.reset.st 0x3F800000#32).1 = 0x3F000000#32 ∧
    (chain (halves 0x016#32) Chan.reset.st 0x3F800000#32).1 = 0x3E800000#32 ∧
    (chain (halves 0x026#32) Chan.reset.st 0x3F800000#32).1 = 0x3E000000#32 ∧
    (chain (halves 0x036#32) Chan.reset.st 0x3F800000#32).1 = 0x3D800000#32 ∧
    (chain (halves 0x037#32) Chan.reset.st 0x3F800000#32).1 = 0x3F800000#32 := by
  decide +kernel

/-- Division as V2.8 has it, divisor 1024.0. -/
theorem test_fdiv :
    f32OfNat 1024 = 0x44800000#32 ∧
    fdiv 0x3F800000#32 0x44800000#32 = 0x3A800000#32 ∧
    fdiv 0x00000400#32 0x44800000#32 = 0x00000001#32 ∧
    fdiv 0x00000600#32 0x44800000#32 = 0x00000002#32 ∧
    fdiv 0#32 0x44800000#32 = 0#32 := by
  decide +kernel

/-- V2.8, the rows of DBCONV that the clamp decides without DB20, and DB-P1, DB-P4. -/
theorem test_dbconv :
    dbconv 0#32 0xC2400000#32 = 0xC2400000#32 ∧
    dbconv 0x80000000#32 0xC2400000#32 = 0xC2400000#32 ∧
    dbconv 0xBF800000#32 0xC2400000#32 = 0xC2400000#32 ∧
    dbconv 0x7FC00000#32 0xC2400000#32 = 0xC2400000#32 ∧
    dbconv 0x3F800000#32 0xC2400000#32 = 0#32 ∧
    dbconv 0x7F800000#32 0xC2400000#32 = 0x7F800000#32 := by
  decide +kernel

/-- RUN = 1. -/
def running : State := { State.reset with ctrl := ⟨true, false, false⟩ }

/-- V2.2, rows 1 and 2. -/
theorem test_frame :
    seen (·.out.full) (exec (.frame false 0xBE800000#32 0x3F000000#32) State.reset) = some false ∧
    seen (fun t => (t.out, t.atb, t.ch.left.acnt, t.ch.right.acnt))
      (exec (.frame false 0xBE800000#32 0x3F000000#32) running) =
      some (⟨true, 0x3F000000#32, 0xBE800000#32, false⟩, false, 1, 1) := by
  decide +kernel

/-- V2.2, row 4. -/
theorem test_take :
    seen (fun t => (t.taken, t.out.full))
      (exec .take { running with out := ⟨true, 0x3F000000#32, 0xBE800000#32, false⟩ }) =
      some ([0x0BE8000003F000000#65], false) := by
  decide +kernel

/-- P3: the delay state carries over a frame, 1.0 + 0.0625. -/
theorem test_frame_carries_state :
    seen (·.out.y0) (exec (.frame false 0#32 0x3F800000#32) { running with
      lv := ⟨Vector.replicate 9 ⟨0x3F800000#32, 0#32, 0#32, 0xBF000000#32, 0#32⟩, cfgOfWord 0x006#32⟩
      ch := ⟨{ Chan.reset with st := Vector.replicate 9 ⟨0x3D800000#32, 0#32⟩ }, Chan.reset⟩ }) =
      some 0x3F880000#32 := by
  decide +kernel

/-- A commit pending on both sides. -/
def committed : State := { State.reset with pendA := true, pendC := true }

/-- V2.3: the shadow is written, the live set is not. -/
theorem test_write_coef :
    seen (fun t => (t.sh.coef[0].b0, t.lv.coef[0].b0))
      (exec (.wrCoefS07 0#3 .b0 0xF#4 0x3F000000#32) State.reset) =
      some (0x3F000000#32, 0x3F800000#32) := by
  decide +kernel

/-- V2.3: a locked shadow, code 8, STATUS 0x21. -/
theorem test_write_coef_locked :
    seen (fun t => (t.err, statusWord t, t.sh == committed.sh))
      (exec (.wrCoefS07 0#3 .b1 0xF#4 0x3F800000#32) committed) =
      some (⟨8#8, 0x0104#16⟩, 0x00000021#32, true) := by
  decide +kernel

/-- V2.3: COMMIT, APPLY and SYNC_ACK on STATUS and the handshake. -/
theorem test_commit :
    seen (fun t => (t.pendC, t.pendA, statusWord t, cmdResultWord t.res)) (exec .commit State.reset) =
      some (true, true, 0x00000001#32, 0x00000101#32) ∧
    seen (fun t => (t.pendA, statusWord t)) (exec .apply committed) = some (false, 0x00000001#32) ∧
    seen (·.pendA) (exec .apply { committed with atb := false }) = some true ∧
    seen statusWord (exec .syncAck { committed with pendA := false }) = some 0#32 := by
  decide +kernel

/-- V2.3: CHAIN_CFG keeps its ten defined bits. -/
theorem test_chain_cfg :
    seen (fun t => cfgWord t.sh.cfg) (exec (.wrChainCfg 0xF#4 0xFFFFFFFF#32) State.reset) =
      some 0x00000337#32 := by
  decide +kernel

/-- V2.4: `gray(b)` for b = 0 .. 63, row by row. -/
theorem test_gray_table :
    (List.range 64).map (fun b => (gray (BitVec.ofNat 6 b)).toNat) =
      [0x00, 0x01, 0x03, 0x02, 0x06, 0x07, 0x05, 0x04, 0x0C, 0x0D, 0x0F, 0x0E, 0x0A, 0x0B, 0x09, 0x08,
       0x18, 0x19, 0x1B, 0x1A, 0x1E, 0x1F, 0x1D, 0x1C, 0x14, 0x15, 0x17, 0x16, 0x12, 0x13, 0x11, 0x10,
       0x30, 0x31, 0x33, 0x32, 0x36, 0x37, 0x35, 0x34, 0x3C, 0x3D, 0x3F, 0x3E, 0x3A, 0x3B, 0x39, 0x38,
       0x28, 0x29, 0x2B, 0x2A, 0x2E, 0x2F, 0x2D, 0x2C, 0x24, 0x25, 0x27, 0x26, 0x22, 0x23, 0x21, 0x20] ∧
    gray2bin 0x11#6 = 30#6 ∧ gray2bin 0x20#6 = 63#6 := by
  decide +kernel

/-- V2.5: the views of FIFO-A and FIFO-B. -/
theorem test_fifo_views :
    levelR { FifoA.reset with wr := 5#6, wsync := 0x02#6, rd := 1#6 } = 2 ∧
    levelW { FifoA.reset with wr := 30#6, rd := 10#6 } = 30 ∧
    (pushA { FifoA.reset with wr := 30#6, rd := 10#6 } []).1 = false ∧
    (syncR2WFifo { FifoA.reset with wr := 30#6, rd := 10#6 }).rsync = 0x0F#6 ∧
    levelR (syncW2RFifo { FifoA.reset with wr := 30#6 }) = 30 ∧
    levelB { FifoB.reset with wr := 63#6, rd := 40#6 } = 23 ∧
    (pushB { FifoB.reset with wr := 63#6, rd := 40#6 } ⟨0#13, []⟩).2.wr = 0#6 := by
  decide +kernel

/-- Channel 0 replaced in the reset state. -/
def withLeft (k : Chan) : State := { State.reset with ch := ⟨k, Chan.reset⟩ }

/-- Channel 1 replaced in the reset state. -/
def withRight (k : Chan) : State := { State.reset with ch := ⟨Chan.reset, k⟩ }

/-- P4 and V2.5: pointer registers. -/
theorem test_fifo_pointers :
    seen (·.resp) (exec (.rdFifoaPtr .left)
      (withLeft { Chan.reset with fa := { FifoA.reset with wr := 30#6, wsync := 0x11#6 } })) =
      some (some ⟨false, some 0x00001100#32⟩) ∧
    seen (·.resp) (exec (.rdFifobPtr .right)
      (withRight { Chan.reset with fb := { FifoB.reset with wr := 0#6, rd := 40#6 } })) =
      some (some ⟨false, some 0x0000003C#32⟩) := by
  decide +kernel

/-- P4: the levels and the synchroniser steps. -/
theorem test_synchronisers :
    seen (·.ch.left.fa.wsync) (exec (.syncW2R .left)
      (withLeft { Chan.reset with fa := { FifoA.reset with wr := 30#6 } })) = some 0x11#6 ∧
    seen (·.ch.left.fa.rsync) (exec (.syncR2W .left)
      (withLeft { Chan.reset with fa := { FifoA.reset with wr := 30#6, rd := 10#6 } })) = some 0x0F#6 ∧
    seen (·.resp) (exec (.rdFifoaLevel .left)
      (withLeft { Chan.reset with fa := { FifoA.reset with wr := 30#6, wsync := 0x11#6 } })) =
      some (some ⟨false, some 0x1E#32⟩) ∧
    seen (·.resp) (exec (.rdFifobLevel .right)
      (withRight { Chan.reset with fb := { FifoB.reset with wr := 63#6, rd := 40#6 } })) =
      some (some ⟨false, some 23#32⟩) := by
  decide +kernel

/-- Three frames of 1024 bins in FIFO-B, the last all -1.0. -/
def threeFrames : FifoB :=
  { FifoB.reset with
    wr := 3#6
    slot := FifoB.reset.slot.set 2 ⟨1024#13, List.replicate 1024 0xBF800000#32⟩ }

/-- V2.6, rows 5 and 6. -/
theorem test_pull :
    seen (fun t => (cmdResultWord t.res, t.ch.left.ob.valid)) (exec (.pullFrame .left) State.reset) =
      some (0x00000502#32, false) ∧
    seen (fun t => (cmdResultWord t.res, levelB t.ch.right.fb, outbufInfoWord t.ch.right.ob,
        memRead t.ch.right.ob.data 1023, memRead t.ch.right.ob.data 1024))
      (exec (.pullLatest .right) (withRight { Chan.reset with fb := threeFrames })) =
      some (0x00030601#32, 0, 0x04000001#32, 0xBF800000#32, 0#32) := by
  decide +kernel

/-- P5: OUTBUF words below and at LEN, and OUTBUF_INFO. -/
theorem test_outbuf :
    seen (·.resp) (exec (.rdOutbuf0 1023#12)
      (withLeft { Chan.reset with ob := ⟨true, 1024#13, [(1023, 0xC2400000#32), (1024, 0x3F800000#32)]⟩ })) =
      some (some ⟨false, some 0xC2400000#32⟩) ∧
    seen (·.resp) (exec (.rdOutbuf0 1024#12)
      (withLeft { Chan.reset with ob := ⟨true, 1024#13, [(1023, 0xC2400000#32), (1024, 0x3F800000#32)]⟩ })) =
      some (some ⟨false, some 0#32⟩) ∧
    seen (·.resp) (exec (.rdOutbufInfo .right)
      (withRight { Chan.reset with ob := ⟨true, 4096#13, []⟩ })) =
      some (some ⟨false, some 0x10000001#32⟩) := by
  decide +kernel

/-- V2.7 with L = 3: the third sample completes a block. -/
theorem test_ingest :
    seen (fun t => (t.ch.left.acnt, t.ch.left.fa.wr, t.ch.left.fa.slot[0]))
      (exec (.ingest .left 0x40400000#32) { withLeft { Chan.reset with
        acnt := 2, acc := [(0, 0x3F800000#32), (1, 0x40000000#32)] } with llive := 3#14 }) =
      some (0, 1#6, [0x3F800000#32, 0x40000000#32, 0x40400000#32]) := by
  decide +kernel

/-- V2.7: ACC_LEN writes. -/
theorem test_write_acc_len :
    seen (·.accLen) (exec (.wrAccLen 0xF#4 0x00002000#32) State.reset) = some 8192#14 ∧
    seen (·.err) (exec (.wrAccLen 0xF#4 0x00002001#32) State.reset) = some ⟨7#8, 0x0024#16⟩ ∧
    seen (·.err) (exec (.wrAccLen 0xF#4 0x00010800#32) State.reset) = some ⟨7#8, 0x0024#16⟩ := by
  decide +kernel

/-- P4: a block of one sample extends the history, and no frame is pushed. -/
theorem test_fft_step :
    seen (fun t => (t.ch.left.hcnt, t.ch.left.hist.drop 2047, t.ch.left.fa.rd, t.ch.left.fb.wr))
      (exec (.fftStep .left) { withLeft { Chan.reset with
        fa := ⟨1#6, 0#6, 1#6, 0#6, Vector.replicate 32 [0x3F000000#32]⟩ } with
          ctrl := ⟨true, true, false⟩ }) =
      some (1#14, [0x3F000000#32], 1#6, 0#6) := by
  decide +kernel

/-- V2.8: SET_FFT_ORDER. -/
theorem test_set_fft_order :
    seen (fun t => (t.fftOrder, cmdResultWord t.res, t.ch.left.hist.length))
      (exec (.setFftOrder 13#4) State.reset) = some (13#4, 0x00000401#32, 8192) ∧
    seen (fun t => (t.fftOrder, cmdResultWord t.res, t.err.code)) (exec (.setFftOrder 14#4) State.reset) =
      some (11#4, 0x00000403#32, 7#8) ∧
    seen (·.err.code) (exec (.setFftOrder 14#4)
      { State.reset with ctrl := ⟨false, true, false⟩ }) = some 6#8 := by
  decide +kernel

/-- V2.8: SILENCE_FLOOR writes. -/
theorem test_write_floor :
    seen (·.floor) (exec (.wrSilenceFloor 0xF#4 0xC2C80000#32) State.reset) = some 0xC2C80000#32 ∧
    seen (·.err) (exec (.wrSilenceFloor 0xF#4 0xFF800000#32) State.reset) = some ⟨7#8, 0x002C#16⟩ := by
  decide +kernel

/-- What a command word leaves in CMD_RESULT and ERR_INFO, written to CMD at reset. -/
def commandAtReset (w : Word) : Option (Word × BitVec 8) :=
  seen (fun t => (cmdResultWord t.res, t.err.code)) (exec (.wrCmd 0xF#4 w) State.reset)

/-- V2.9, command words. -/
theorem test_commands :
    commandAtReset 0x00000000#32 = some (0x00000001#32, 0#8) ∧
    commandAtReset 0x00000001#32 = some (0x00000003#32, 5#8) ∧
    commandAtReset 0x02000000#32 = some (0x00000201#32, 0#8) ∧
    commandAtReset 0x03000000#32 = some (0x00000301#32, 0#8) ∧
    commandAtReset 0x05000002#32 = some (0x00000503#32, 5#8) ∧
    commandAtReset 0x06000001#32 = some (0x00000602#32, 0#8) ∧
    commandAtReset 0xFF000000#32 = some (0x0000FF03#32, 5#8) := by
  decide +kernel

/-- V2.9: PREPARE with RUN = 1 is refused. -/
theorem test_prepare_running :
    seen (fun t => (cmdResultWord t.res, t.err)) (exec .prepare running) =
      some (0x00000203#32, ⟨6#8, 0x0018#16⟩) := by
  decide +kernel

/-- P4: PREPARE takes ACC_LEN over. -/
theorem test_prepare :
    seen (fun t => (t.llive, t.ch.left.acnt)) (exec .prepare
      { withLeft { Chan.reset with acnt := 7 } with accLen := 1#14 }) = some (1#14, 0) := by
  decide +kernel

/-- What an access leaves in STATUS and ERR_INFO, made at reset, and whether it says error. -/
def errorAtReset (i : Instr) : Option (Word × Word × Option Bool) :=
  seen (fun t => (statusWord t, errInfoWord t.err, t.resp.map (·.err))) (exec i State.reset)

/-- V2.9, error priority and recording. -/
theorem test_errors :
    errorAtReset (.busReadChecks 0x0002#16) = some (0x10#32, 0x00020001#32, some true) ∧
    errorAtReset (.busWriteChecks 0x0002#16 0x3#4 0#32) = some (0x10#32, 0x00020001#32, some true) ∧
    errorAtReset (.busUnmapped (.wr 0x3#4 0#32) 0x0064#16) = some (0x10#32, 0x00640002#32, some true) ∧
    errorAtReset (.busUnmapped (.wr 0xF#4 0#32) 0x0064#16) = some (0x10#32, 0x00640003#32, some true) := by
  decide +kernel

/-- V2.9, error priority and recording, the other codes. -/
theorem test_error_codes :
    errorAtReset (.busUnmapped .rd 0xC000#16) = some (0x10#32, 0xC0000003#32, some true) ∧
    errorAtReset (.wrCoefLiveS07 0#3 .b0 0xF#4 0#32) = some (0x10#32, 0x03000004#32, some true) ∧
    errorAtReset (.wrCmd 0xF#4 0x08000000#32) = some (0x20#32, 0x00180005#32, some true) ∧
    errorAtReset (.wrSilenceFloor 0xF#4 0x7FC00000#32) = some (0x20#32, 0x002C0007#32, some true) ∧
    errorAtReset .rdCmd = some (0#32, 0#32, some false) := by
  decide +kernel

/-- 60_exceptions R443: ERR_INFO keeps the first error until both sticky bits are clear. -/
theorem test_first_error_kept :
    seen (·.err) (exec (.wrId 0xF#4 0#32) { State.reset with cfgErr := true, err := ⟨7#8, 0x0024#16⟩ }) =
      some ⟨7#8, 0x0024#16⟩ ∧
    seen (fun t => (t.busErr, t.cfgErr)) (exec (.wrStatus 0xF#4 0x10#32)
      { State.reset with busErr := true, cfgErr := true }) = some (false, true) := by
  decide +kernel

/-- V2.9, reads after reset, over the whole path from the word to the response. -/
def readAtReset (w : Nat) : Option (Option BusResp) :=
  seen (·.resp) (step (State.reset.withFetchWord 24 w))

theorem test_reset_reads :
    readAtReset 0x00000 = some (some ⟨false, some 0x53455101#32⟩) ∧
    readAtReset 0x00004 = some (some ⟨false, some 0x02BD1E42#32⟩) ∧
    readAtReset 0x0000C = some (some ⟨false, some 0x00000007#32⟩) ∧
    readAtReset 0x00020 = some (some ⟨false, some 0x0000000B#32⟩) ∧
    readAtReset 0x00024 = some (some ⟨false, some 0x00000800#32⟩) ∧
    readAtReset 0x0002C = some (some ⟨false, some 0xC2400000#32⟩) ∧
    readAtReset 0x00160 = some (some ⟨false, some 0x3F800000#32⟩) ∧
    readAtReset 0x00404 = some (some ⟨false, some 0x00000000#32⟩) ∧
    readAtReset 0x0BFFC = some (some ⟨false, some 0x00000000#32⟩) ∧
    readAtReset 0x00114 = some (some ⟨true, some 0#32⟩) := by
  decide +kernel

/-- A word placed with `withFetchWord` is what the next step runs, for each port. -/
theorem test_fetch_word :
    step (State.reset.withFetchWord 32 0x03000000) = exec .clearState State.reset ∧
    step (State.reset.withFetchWord 24 0x10008) = exec (.wrCtrl 0xF#4 0#32) State.reset ∧
    step (running.withFetchWord 72 0x1400000003F800000) =
      exec (.frame true 0x40000000#32 0x3F800000#32) running := by
  refine ⟨rfl, rfl, rfl⟩

/-! ## The hypotheses of the statements are met together

One theorem for each statement with hypotheses, by the statement's name; one conjunct for each clause. -/

theorem witness_EncodedInstructionsDecodeBack :
    (∃ t, Instr.wf (.setFftOrder 15#4) = true ∧ encode (.setFftOrder 15#4) = some t) ∧
    (∃ t, Instr.wf (.busUnmapped (.wr 0x0#4 0#32) 0xFFFC#16) = true ∧
      encode (.busUnmapped (.wr 0x0#4 0#32) 0xFFFC#16) = some t) ∧
    (∃ t, Instr.wf (.cmdReserved 0x06000002#32) = true ∧ encode (.cmdReserved 0x06000002#32) = some t) :=
  ⟨⟨_, by decide, rfl⟩, ⟨_, by decide, rfl⟩, ⟨_, by decide, rfl⟩⟩

/-- Words on both sides of each edge, and the orders next to the legal ones. -/
theorem witness_IllegalCommandWordsAreRefused :
    decode (.bus (.command 0x03000001#32)) = .cmdReserved 0x03000001#32 ∧
    decode (.bus (.command 0x04000010#32)) = .cmdReserved 0x04000010#32 ∧
    decode (.bus (.command 0x06000002#32)) = .cmdReserved 0x06000002#32 ∧
    decode (.bus (.command 0x07000000#32)) = .cmdReserved 0x07000000#32 ∧
    decode (.bus (.command 0x03000000#32)) = .clearState ∧
    decode (.bus (.command 0x0400000F#32)) = .setFftOrder 15#4 ∧
    decode (.bus (.command 0x06000001#32)) = .pullLatest .right ∧
    (State.reset.ctrl.fftEn = false ∧ (10#4 : BitVec 4) ≠ 11#4 ∧ (10#4 : BitVec 4) ≠ 12#4 ∧
      (10#4 : BitVec 4) ≠ 13#4) ∧
    ((14#4 : BitVec 4) ≠ 11#4 ∧ (14#4 : BitVec 4) ≠ 12#4 ∧ (14#4 : BitVec 4) ≠ 13#4) := by
  decide

theorem witness_AddressMapIsTheDispatchTable :
    regAt 0xBFFC#16 = some (.outbuf .right 0xFFF#12) ∧ regAddr (.outbuf .right 0xFFF#12) = 0xBFFC#16 ∧
    regAt 0x0410#16 = some (.coefLive 8 .a2) ∧ regAddr (.coefLive 8 .a2) = 0x0410#16 := by
  decide +kernel

/-- The reset state with turns, accesses and frames listed. -/
def scheduled (ts : List Config.Turn) (q : List BusOp) (f : List FrameBits) : State :=
  { State.reset with turns := ts, busQ := q, srcQ := f }

theorem witness_StepRunsTheNextAgentsOperation :
    ((scheduled [.hostBus] [.command 0#32] []).turns = .hostBus :: [] ∧
      (scheduled [.hostBus] [.command 0#32] []).busQ = .command 0#32 :: []) ∧
    ((scheduled [.audioSrc] [] [0#65]).turns = .audioSrc :: [] ∧
      (scheduled [.audioSrc] [] [0#65]).srcQ = 0#65 :: []) ∧
    (scheduled [.audioSink] [] []).turns = .audioSink :: [] ∧
    (scheduled [.audio] [] []).turns = .audio :: [] ∧
    (scheduled [.syncAck] [] []).turns = .syncAck :: [] ∧
    (scheduled [.syncW2R .right] [] []).turns = .syncW2R .right :: [] ∧
    (scheduled [.syncR2W .left] [] []).turns = .syncR2W .left :: [] ∧
    (scheduled [.fft .right] [] []).turns = .fft .right :: [] ∧
    ((scheduled [.hostBus] [] []).turns = .hostBus :: [] ∧ (scheduled [.hostBus] [] []).busQ = []) ∧
    ((scheduled [.audioSrc] [] []).turns = .audioSrc :: [] ∧ (scheduled [.audioSrc] [] []).srcQ = []) ∧
    (scheduled [.reset] [] []).turns = .reset :: [] ∧
    State.reset.turns = [] := by
  refine ⟨⟨rfl, rfl⟩, ⟨rfl, rfl⟩, rfl, rfl, rfl, rfl, rfl, rfl, ⟨rfl, rfl⟩, ⟨rfl, rfl⟩, rfl, rfl⟩

/-- The clauses on turns whose operation is not enabled. -/
theorem witness_StepRunsTheNextAgentsOperation_waits :
    State.reset.out.full = false ∧ State.reset.pendA = false ∧ { committed with atb := false }.atb = false ∧
    State.reset.pendC = false ∧ committed.pendA = true ∧
    State.reset.ctrl.fftEn = false ∧ levelR (getCh State.reset .left).fa = 0 := by decide

theorem witness_CommitRaisesTheHandshake :
    State.reset.pendC = false ∧ committed.pendC = true := by decide

theorem witness_PrepareReinitialises :
    (State.reset.ctrl.run = false ∧ State.reset.ctrl.fftEn = false) ∧ running.ctrl.run = true ∧
    { State.reset with ctrl := ⟨false, true, false⟩ }.ctrl.fftEn = true := by decide

theorem witness_SetFftOrderClearsHistories :
    { State.reset with ctrl := ⟨false, true, false⟩ }.ctrl.fftEn = true ∧
    (State.reset.ctrl.fftEn = false ∧ (10#4 : BitVec 4) ≠ 11#4 ∧ (10#4 : BitVec 4) ≠ 12#4 ∧
      (10#4 : BitVec 4) ≠ 13#4) ∧
    (State.reset.ctrl.fftEn = false ∧ ((13#4 : BitVec 4) = 11#4 ∨ (13#4 : BitVec 4) = 12#4 ∨
      (13#4 : BitVec 4) = 13#4)) := by decide

/-- FIFO-B of channel 0 with three frames, the last of them next. -/
def lastFrameNext : State := withLeft { Chan.reset with fb := { threeFrames with rd := 2#6 } }

theorem witness_PullFrameLoadsTheOldestFrame :
    (getCh State.reset .left).fb.wr = (getCh State.reset .left).fb.rd ∧
    (getCh lastFrameNext .left).fb.wr ≠ (getCh lastFrameNext .left).fb.rd ∧
    (getCh lastFrameNext .left).fb.slot[2].data.length =
      (getCh lastFrameNext .left).fb.slot[2].len.toNat := by
  decide +kernel

theorem witness_PullLatestKeepsTheNewestFrame :
    (getCh State.reset .left).fb.wr = (getCh State.reset .left).fb.rd ∧
    (getCh (withLeft { Chan.reset with fb := threeFrames }) .left).fb.wr ≠
      (getCh (withLeft { Chan.reset with fb := threeFrames }) .left).fb.rd ∧
    (threeFrames.wr - 1).toNat % 32 = 2 ∧
    threeFrames.slot[2].data.length = threeFrames.slot[2].len.toNat := by
  decide +kernel

theorem witness_WriteOfCmdRunsTheCommandWord : (0xE#4 : Strobes) ≠ 0xF#4 := by decide

/-- Each of the three kinds of address, at its edges. -/
theorem witness_ReadAccessIsCheckedThenDispatched :
    (0x0001#16 : Addr).toNat % 4 ≠ 0 ∧ (0xFFFF#16 : Addr).toNat % 4 ≠ 0 ∧
    ((0xC000#16 : Addr).toNat % 4 = 0 ∧ regAt 0xC000#16 = none) ∧
    ((0x0064#16 : Addr).toNat % 4 = 0 ∧ regAt 0x0064#16 = none) ∧
    regAddr .id = 0x0000#16 ∧ regAddr (.outbuf .right 0xFFF#12) = 0xBFFC#16 := by
  decide +kernel

theorem witness_unmapped_address : ∀ r : Reg, regAddr r ≠ 0xC000#16 := by
  intro r h
  have := regAt_regAddr r
  rw [h] at this
  revert this
  exact fun h => absurd h (by rw [show regAt 0xC000#16 = none from by decide]; simp)

theorem witness_WriteAccessIsCheckedThenDispatched :
    (0x0003#16 : Addr).toNat % 4 ≠ 0 ∧
    ((0x0008#16 : Addr).toNat % 4 = 0 ∧ (0x7#4 : Strobes) ≠ 0xF#4) ∧
    ((0xC000#16 : Addr).toNat % 4 = 0 ∧ regAt 0xC000#16 = none) ∧
    (regAddr .errInfo = 0x0060#16 ∧ readOnlyReg .errInfo = true) ∧
    (regAddr (.coef 8 .a2) = 0x0210#16 ∧ readOnlyReg (.coef 8 .a2) = false) := by
  decide +kernel

theorem witness_PartialWritesAreRefused : (0x0#4 : Strobes) ≠ 0xF#4 ∧ (0xE#4 : Strobes) ≠ 0xF#4 := by
  decide

theorem witness_UnmappedAccessesAreRefused : (0x1#4 : Strobes) ≠ 0xF#4 := by decide

theorem witness_LiveRegistersReadBack : State.reset.pendC = false ∧ committed.pendC = true := by decide

theorem witness_ReadsHaveNoSideEffects :
    State.reset.pendC = false ∧
    (committed.pendC = true ∧ Reg.status ≠ .chainLive ∧ ∀ i k, Reg.status ≠ .coefLive i k) :=
  ⟨by decide, by decide, by decide, fun _ _ => by simp⟩

theorem witness_WriteChainCfgStoresTheShadow :
    committed.pendC = true ∧
    (State.reset.pendC = false ∧ ∃ t, exec (.wrChainCfg 0xF#4 0xFFFFFFFF#32) State.reset = .next t) :=
  ⟨by decide, by decide, _, rfl⟩

theorem witness_WriteCoefStoresOneTap : committed.pendC = true ∧ State.reset.pendC = false := by decide

/-- ACC_LEN at and next to both ends; floors of the largest finite exponent and of infinity. -/
theorem witness_ValueWritesAreChecked :
    (1 ≤ (1#32 : Word).toNat ∧ (1#32 : Word).toNat ≤ 8192) ∧
    (1 ≤ (8192#32 : Word).toNat ∧ (8192#32 : Word).toNat ≤ 8192) ∧
    ¬ (1 ≤ (0#32 : Word).toNat ∧ (0#32 : Word).toNat ≤ 8192) ∧
    ¬ (1 ≤ (8193#32 : Word).toNat ∧ (8193#32 : Word).toNat ≤ 8192) ∧
    (0xFF7FFFFF#32 : Word).extractLsb' 23 8 ≠ 0xFF#8 ∧
    (0x7F800000#32 : Word).extractLsb' 23 8 = 0xFF#8 := by
  decide

theorem witness_FrameIsFilteredAndCollected :
    (running.ctrl.run = true ∧ running.out.full = false) ∧ State.reset.ctrl.run = false ∧
    { running with out := ⟨true, 0#32, 0#32, false⟩ }.out.full = true := by decide

theorem witness_TakeDeliversTheHeldFrame :
    { running with out := ⟨true, 0#32, 0#32, false⟩ }.out.full = true := by decide

theorem witness_CommitLandsAndIsAcknowledged :
    (committed.pendA = true ∧ committed.atb = true) ∧
    { committed with pendA := false }.pendC = true ∧ { committed with pendA := false }.pendA = false := by
  decide

/-- A running block in which a commit is due. -/
def runningCommit : State := { committed with ctrl := ⟨true, false, false⟩ }

theorem witness_ApplyBeforeAFrameIsUnobservable :
    runningCommit.ctrl.run = true ∧ runningCommit.out.full = false ∧
    ∃ t, exec .apply runningCommit = .next t := ⟨by decide, by decide, _, rfl⟩

theorem witness_IdentitySectionPassesFiniteSamples :
    (f32IsFinite 0x7F7FFFFF#32 = true ∧ (0x7F7FFFFF#32 : F32) ≠ 0x80000000#32) ∧
    (f32IsFinite 0x00000000#32 = true ∧ (0x00000000#32 : F32) ≠ 0x80000000#32) := by decide

/-- A running section and a bypassed one. -/
theorem witness_SectionStepIsTransposedDirectForm :
    active (cfgOfWord 0x006#32) 0 = true ∧ active ChainCfg.reset 8 = false := by decide

theorem witness_SlopeAndBypassSelectSections :
    (cfgOfWord 0x006#32).lcByp = false ∧ (cfgOfWord 0x003#32).hcByp = false ∧
    CoefFile.reset.cfg.lcByp = true ∧ CoefFile.reset.cfg.pkByp = true ∧
    CoefFile.reset.cfg.hcByp = true := by decide

theorem witness_RoundingIsNearestTiesToEven :
    0 < 2 ∧ 2 * ((3 : Int) - roundHalfEven 3 2 * (2 : Nat)).natAbs = 2 ∧
    f32IsFinite 0x7F7FFFFF#32 = true := by decide

/-- The operands of each clause: finite ones, a zero divisor, NaN, and infinities of each sign. -/
theorem witness_RoundingIsNearestTiesToEven_operands :
    (f32IsFinite 0x00000001#32 = true ∧ f32IsFinite 0xFF7FFFFF#32 = true ∧ f32Rat 0xFF7FFFFF#32 ≠ 0) ∧
    (f32IsFinite 0x80000000#32 = true ∧ f32Rat 0x80000000#32 = 0 ∧ f32Rat 0x00000000#32 = 0 ∧
      f32Rat 0x00000001#32 ≠ 0) ∧
    f32IsNaN 0xFF800001#32 = true ∧
    (f32IsInf 0x7F800000#32 = true ∧ f32IsInf 0xFF800000#32 = true ∧
      f32Sign 0x7F800000#32 = f32Sign 0x7F800000#32 ∧ f32Sign 0x7F800000#32 ≠ f32Sign 0xFF800000#32) := by
  have u1 : f32Units 0xFF7FFFFF#32 ≠ 0 := by decide +kernel
  have u2 : f32Units 0x80000000#32 = 0 := by decide
  have u3 : f32Units 0x00000000#32 = 0 := by decide
  have u4 : f32Units 0x00000001#32 = 1 := by decide
  refine ⟨⟨by decide, by decide, ?_⟩, ⟨by decide, ?_, ?_, ?_⟩, by decide, by decide⟩
  · simp only [f32Rat]
    exact div_ne_zero (Int.cast_ne_zero.mpr u1) (by norm_num)
  all_goals simp [f32Rat, u2, u3, u4]

/-- A running block whose next agent is `turn`, with a frame offered. -/
def offering (turn : Config.Turn) (full : Bool) : State :=
  { running with turns := [turn], srcQ := [0#65], out := ⟨full, 0#32, 0#32, false⟩ }

/-- An operation that adds a frame, one that delivers it, and the three kinds of step. -/
theorem witness_OutputFramesAreLostOnlyByReset :
    (∃ t, exec (.frame true 0#32 0#32) running = .next t) ∧
    (∃ t, exec .take { running with out := ⟨true, 0#32, 0#32, true⟩ } = .next t) ∧
    ((∃ t, step (offering .reset true) = .next t) ∧
      (offering .reset true).turns.head?.getD (Config.freeTurn 0) = .reset) ∧
    ((∃ t, step (offering .audioSrc false) = .next t) ∧
      (offering .audioSrc false).turns.head?.getD (Config.freeTurn 0) = .audioSrc ∧
      (offering .audioSrc false).srcQ ≠ [] ∧ (offering .audioSrc false).ctrl.run = true ∧
      (offering .audioSrc false).out.full = false) ∧
    ((∃ t, step (offering .audioSrc true) = .next t) ∧
      (offering .audioSrc true).turns.head?.getD (Config.freeTurn 0) ≠ .reset ∧
      (offering .audioSrc true).out.full = true) :=
  ⟨⟨_, rfl⟩, ⟨_, rfl⟩, ⟨⟨_, rfl⟩, rfl⟩, ⟨⟨_, rfl⟩, rfl, by decide, rfl, rfl⟩, ⟨⟨_, rfl⟩, nofun, rfl⟩⟩

theorem witness_FifosAreBoundedQueues :
    (FifoBOk { FifoB.reset with wr := 30#6 } ∧ (contentsB { FifoB.reset with wr := 30#6 }).length = 30) ∧
    (FifoBOk { FifoB.reset with wr := 29#6 } ∧ (contentsB { FifoB.reset with wr := 29#6 }).length < 30) ∧
    (FifoBOk FifoB.reset ∧ contentsB FifoB.reset = []) ∧
    (FifoBOk threeFrames ∧ ∃ u us, contentsB threeFrames = u :: us) ∧
    (FifoAOk { FifoA.reset with wr := 30#6 } ∧ levelW { FifoA.reset with wr := 30#6 } = 30) ∧
    (FifoAOk { FifoA.reset with wr := 29#6 } ∧ levelW { FifoA.reset with wr := 29#6 } < 30) ∧
    (FifoAOk FifoA.reset ∧ levelR FifoA.reset = 0) ∧
    (FifoAOk { FifoA.reset with wr := 1#6, wsync := 1#6 } ∧
      0 < levelR { FifoA.reset with wr := 1#6, wsync := 1#6 }) := by
  unfold FifoAOk FifoBOk
  refine ⟨by decide +kernel, by decide +kernel, by decide +kernel, ⟨by decide +kernel, _, _, rfl⟩,
    by decide +kernel, by decide +kernel, by decide +kernel, by decide +kernel⟩

theorem witness_FifoRoundTrip :
    FifoB.reset.wr = FifoB.reset.rd ∧
    (List.replicate 30 (⟨1024#13, []⟩ : Spectrum)).length ≤ 30 ∧
    FifoA.reset.wr = FifoA.reset.rd ∧ (List.replicate 30 ([] : List F32)).length ≤ 30 ∧
    (contentsB { FifoB.reset with wr := 30#6 }).length = 30 ∧
    (contentsA { FifoA.reset with wr := 30#6 }).length = 30 := by decide +kernel

theorem witness_IngestCompletesBlocks :
    (getCh State.reset .left).acnt + 1 ≠ State.reset.llive.toNat ∧
    ((getCh (withLeft { Chan.reset with acnt := 2047, fa := { FifoA.reset with wr := 30#6 } }) .left).acnt +
        1 = State.reset.llive.toNat ∧
      30 ≤ levelW (getCh (withLeft
        { Chan.reset with acnt := 2047, fa := { FifoA.reset with wr := 30#6 } }) .left).fa) ∧
    ((getCh (withLeft { Chan.reset with acnt := 2047, fa := { FifoA.reset with wr := 29#6 } }) .left).acnt +
        1 = State.reset.llive.toNat ∧
      levelW (getCh (withLeft
        { Chan.reset with acnt := 2047, fa := { FifoA.reset with wr := 29#6 } }) .left).fa < 30) := by
  decide +kernel

theorem witness_CollectorCutsTheStreamIntoBlocks :
    1 ≤ 1 ∧ Chan.reset.acnt = 0 ∧ memWf Chan.reset.acc = true ∧ FifoAOk Chan.reset.fa ∧
    levelW Chan.reset.fa + (List.replicate 30 (0#32 : F32)).length / 1 ≤ 30 := by
  unfold FifoAOk
  decide +kernel

/-- Blocks of three with a remainder: of 92 samples two stay waiting, and the 30 blocks just fit. -/
theorem witness_CollectorCutsTheStreamIntoBlocks_remainder :
    1 ≤ 3 ∧ (List.replicate 92 (0#32 : F32)).length % 3 = 2 ∧
    levelW Chan.reset.fa + (List.replicate 92 (0#32 : F32)).length / 3 = 30 := by
  decide +kernel

/-- A history of each size, and each case of the clamp: 20 log10 of 1.0 is below a floor of 1.0. -/
theorem witness_FftStepPullsOneBlock_bins :
    (((2048, 0x44800000#32) : Nat × F32) ∈
        [(2048, 0x44800000#32), (4096, 0x45000000#32), (8192, 0x45800000#32)] ∧
      (List.replicate 2048 (0#32 : F32)).length = 2048) ∧
    f32IsNaN 0x7FC00000#32 = true ∧ fle 0x80000000#32 0x00000000#32 = true ∧
    (f32IsNaN 0x3F800000#32 = false ∧ fle 0x3F800000#32 0x00000000#32 = false ∧
      flt (db20 0x3F800000#32) 0x3F800000#32 = true) ∧
    (f32IsNaN (db20 0x3F800000#32) = false ∧ flt (db20 0x3F800000#32) 0x00000000#32 = false) := by
  decide +kernel

/-- A block of one sample waiting for FFT[0], whose history holds `n` samples, and `k` frames in FIFO-B. -/
def fftReady (n : BitVec 14) (k : Ptr) : State :=
  { withLeft { Chan.reset with
      fa := ⟨1#6, 0#6, 1#6, 0#6, Vector.replicate 32 [0x3F000000#32]⟩
      hcnt := n
      fb := { FifoB.reset with wr := k } } with ctrl := ⟨true, true, false⟩ }

theorem witness_FftStepPullsOneBlock :
    ((fftReady 2046#14 0#6).ctrl.fftEn = true ∧ 0 < levelR (getCh (fftReady 2046#14 0#6) .left).fa ∧
      orderLegal (fftReady 2046#14 0#6).fftOrder = true) ∧
    (min 2048 ((getCh (fftReady 2046#14 0#6) .left).hcnt.toNat + 1) < 2048) ∧
    (min 2048 ((getCh (fftReady 2047#14 30#6) .left).hcnt.toNat + 1) = 2048 ∧
      levelB (getCh (fftReady 2047#14 30#6) .left).fb = 30) ∧
    (min 2048 ((getCh (fftReady 2047#14 29#6) .left).hcnt.toNat + 1) = 2048 ∧
      levelB (getCh (fftReady 2047#14 29#6) .left).fb < 30) := by
  decide +kernel

/-- One silent block of 2048 samples waiting for FFT[0]. -/
def silentBlock : State :=
  { withLeft { Chan.reset with
      fa := ⟨1#6, 0#6, 1#6, 0#6, Vector.replicate 32 (List.replicate 2048 0x80000000#32)⟩ } with
    ctrl := ⟨true, true, false⟩ }

theorem registersOk_silentBlock : RegistersOk silentBlock := by
  refine ⟨by unfold HandshakeOk; decide, by unfold ConfigOk; decide +kernel, ?_, ?_⟩ <;> intro c <;>
    cases c <;> decide +kernel

theorem levelsOk_silentBlock : LevelsOk silentBlock := by
  intro c
  unfold FifoAOk FifoBOk
  cases c <;> decide +kernel

theorem witness_SilenceGivesTheFloor :
    ((List.replicate 8192 (0#32 : F32)).length = 8192 ∧
      ∀ x ∈ List.replicate 8192 (0#32 : F32), x = 0x00000000#32 ∨ x = 0x80000000#32) ∧
    (RegistersOk silentBlock ∧ LevelsOk silentBlock ∧ silentBlock.ctrl.fftEn = true ∧
      0 < levelR (getCh silentBlock .left).fa ∧ levelB (getCh silentBlock .left).fb < 30 ∧
      (contentsA (getCh silentBlock .left).fa).head? = some (List.replicate 2048 0x80000000#32) ∧
      fftSize silentBlock.fftOrder ≤ (getCh silentBlock .left).hcnt.toNat +
        (List.replicate 2048 (0x80000000#32 : F32)).length ∧
      ∀ x ∈ lastN (fftSize silentBlock.fftOrder)
        ((getCh silentBlock .left).hist ++ List.replicate 2048 0x80000000#32),
        x = 0x00000000#32 ∨ x = 0x80000000#32) := by
  refine ⟨⟨by decide +kernel, fun x hx => .inl (List.eq_of_mem_replicate hx)⟩, registersOk_silentBlock,
    levelsOk_silentBlock, by decide, by decide, by decide, rfl, ?_, ?_⟩
  · rw [List.length_replicate]
    decide
  · intro x hx
    rcases List.mem_append.mp (List.mem_of_mem_drop hx) with h | h
    · exact .inl (List.eq_of_mem_replicate h)
    · exact .inr (List.eq_of_mem_replicate h)

theorem witness_NoBinIsNaNOrBelowTheFloor :
    f32IsFinite 0xFF7FFFFF#32 = true ∧ ∃ d, d ∈ (Machine.spectrum [] 2 0xFF7FFFFF#32).data :=
  ⟨by decide, _, List.mem_cons_self⟩

/-- A silent sequence meets the hypotheses of the four properties of the transform. -/
theorem witness_ParametersHaveRequiredProperties :
    (2048 ∈ [2048, 4096, 8192] ∧ (List.replicate 2048 (0x80000000#32 : F32)).length = 2048 ∧ 1023 < 2048 / 2 ∧
      (∀ x ∈ List.replicate 2048 (0x80000000#32 : F32), x = 0x00000000#32 ∨ x = 0x80000000#32) ∧
      (∀ x ∈ List.replicate 2048 (0x80000000#32 : F32), f32IsFinite x = true) ∧
      ∀ k < 2048 / 2, f32IsInf (fftMag 2048 (List.replicate 2048 0x80000000#32) k) = false) ∧
    f32Pos 0x00000001#32 = true ∧ f32Pos 0x7F7FFFFF#32 = true ∧
    fle 0x00000001#32 0x7F7FFFFF#32 = true :=
  have hz : ∀ x ∈ List.replicate 2048 (0x80000000#32 : F32), x = 0x00000000#32 ∨ x = 0x80000000#32 :=
    fun _ hx => .inr (List.eq_of_mem_replicate hx)
  ⟨⟨by decide, List.length_replicate, by decide, hz, fun x hx => by rw [List.eq_of_mem_replicate hx]; decide,
    fun k hk => by
      rw [fftMag, transform.zero 2048 (by decide) _ List.length_replicate hz k hk]; decide⟩,
    by decide, by decide, by decide⟩

theorem witness_DecibelsAreWithinTolerance :
    f32Pos 0x00000001#32 = true ∧ f32Pos 0x3F800000#32 = true ∧ f32Pos 0x7F7FFFFF#32 = true := by
  decide

/-- A frame about to be accepted; a commit is due. -/
def streaming : State := { runningCommit with turns := [.audioSrc], srcQ := [0x10000000000000000#65] }

theorem levelsOk_streaming : LevelsOk streaming := by
  intro c
  unfold FifoAOk FifoBOk
  cases c <;> decide +kernel

theorem registersOk_streaming : RegistersOk streaming := by
  refine ⟨by unfold HandshakeOk; decide, by unfold ConfigOk; decide +kernel, ?_, ?_⟩ <;> intro c <;>
    cases c <;> decide +kernel

theorem witness_MemoriesStayCanonical : MemoriesCanonical streaming ∧ ∃ t, step streaming = .next t :=
  ⟨by intro c; cases c <;> exact ⟨rfl, rfl⟩, _, rfl⟩

theorem witness_FifoLevelsStayInOrder : LevelsOk streaming ∧ ∃ t, step streaming = .next t :=
  ⟨levelsOk_streaming, _, rfl⟩

theorem witness_RegistersStayLegal : RegistersOk streaming ∧ ∃ t, step streaming = .next t :=
  ⟨registersOk_streaming, _, rfl⟩

theorem witness_SnapshotsKeepTheirSizes :
    LevelsOk streaming ∧ RegistersOk streaming ∧ SnapshotsOk streaming ∧ ∃ t, step streaming = .next t :=
  ⟨levelsOk_streaming, registersOk_streaming, by intro c; cases c <;> decide +kernel, _, rfl⟩

/-- Every internal step is enabled somewhere. -/
theorem witness_InternalStepsComeToAnEnd :
    (LevelsOk streaming ∧ internalEnabled streaming .apply = true ∧
      ∃ t, exec .apply streaming = .next t) ∧
    internalEnabled { committed with pendA := false } .syncAck = true ∧
    internalEnabled (withLeft { Chan.reset with fa := { FifoA.reset with wr := 1#6 } }) (.syncW2R .left) =
      true ∧
    internalEnabled (withLeft { Chan.reset with fa := { FifoA.reset with wr := 1#6, rd := 1#6 } })
      (.syncR2W .left) = true ∧
    (LevelsOk silentBlock ∧ internalEnabled silentBlock (.fftStep .left) = true) :=
  ⟨⟨levelsOk_streaming, by decide, _, rfl⟩, by decide, by decide, by decide, levelsOk_silentBlock,
    by decide +kernel⟩

theorem witness_QuiescentStatesAreSettled : LevelsOk State.reset ∧ Quiescent State.reset := by
  refine ⟨?_, ?_⟩
  · intro c
    unfold FifoAOk FifoBOk
    cases c <;> decide +kernel
  · intro i
    cases i <;> first | rfl | (rename_i c; cases c <;> decide)

end Sys2Proof.Tests
end

section
/-!
PROOF. The step as the move of the next agent (00_scope R6, 30_encoding R140).
-/

namespace Sys2Proof.Machine

open Sys2Proof.Safety

/-! ## Which agent moves, and what it runs -/

/-- With a turn listed, its agent moves on the state without that turn. -/
theorem step_of_turns {s : State} {t : Config.Turn} {ts : List Config.Turn} (h : s.turns = t :: ts) :
    step s = runTurn t { s with turns := ts } := by
  simp only [step, nextTurn, h]

/-- With no turn listed, the agent of the next free choice moves. -/
theorem step_of_no_turns {s : State} (h : s.turns = []) :
    step s = runTurn (Config.freeTurn s.free) { s with free := s.free + 1 } := by
  simp only [step, nextTurn, h]

/-- With no turn listed, a step is the step of the state that lists the free choice. -/
theorem step_lists_free_turn {s : State} (h : s.turns = []) :
    step s = step { s with turns := [Config.freeTurn s.free], free := s.free + 1 } := by
  rw [step_of_no_turns h, step_of_turns (t := Config.freeTurn s.free) (ts := []) rfl]
  cases s
  cases h
  rfl

theorem runTurn_of_fetch {t : Config.Turn} {s : State} {i : Instr} (h : fetch t s = some i) :
    runTurn t s = exec i (consume t s) := by
  simp only [runTurn, h]

theorem runTurn_of_no_fetch {t : Config.Turn} {s : State} (h : fetch t s = none) :
    runTurn t s = .next (idle t s) := by
  simp only [runTurn, h]

/-- HOST_BUS runs the access it has queued first, and has issued it. -/
theorem runTurn_hostBus {s : State} {b : BusOp} {q : List BusOp} (h : s.busQ = b :: q) :
    runTurn .hostBus s = exec (decode (.bus b)) { s with busQ := q } := by
  rw [runTurn_of_fetch (i := decode (.bus b)) (by simp only [fetch, h])]
  simp only [consume, h, List.tail_cons]

theorem runTurn_hostBus_idle {s : State} (h : s.busQ = []) : runTurn .hostBus s = .next s :=
  runTurn_of_no_fetch (by simp only [fetch, h])

/-- `s_ready = 1` in words of the registers (10_state R70). -/
theorem sReady_iff (s : State) : sReady s = true ↔ s.ctrl.run = true ∧ s.out.full = false := by
  simp [sReady]

/-- AUDIO_SRC offers its first frame, and keeps it while `s_ready = 0`. -/
theorem runTurn_audioSrc {s : State} {f : FrameBits} {q : List FrameBits} (h : s.srcQ = f :: q) :
    runTurn .audioSrc s = exec (decode (.streamIn f))
      { s with srcQ := if s.ctrl.run = true ∧ s.out.full = false then q else f :: q } := by
  rw [runTurn_of_fetch (i := decode (.streamIn f)) (by simp only [fetch, h])]
  simp only [consume, sReady_iff, h, List.tail_cons]
  split
  · rfl
  · rw [← h]

theorem runTurn_audioSrc_idle {s : State} (h : s.srcQ = []) : runTurn .audioSrc s = .next s :=
  runTurn_of_no_fetch (by simp only [fetch, h])

/-! ## Operations that are not enabled (log 12) -/

theorem exec_take_of_empty {s : State} (h : s.out.full = false) : exec .take s = .next s := by
  simp [exec, execTake, h]

theorem exec_apply_of_not_due {s : State} (h : s.pendA = false ∨ s.atb = false) :
    exec .apply s = .next s := by
  rcases applyStep_cases s with ⟨hp, ha, -⟩ | ⟨-, e⟩
  · simp [hp, ha] at h
  · simp only [exec, execApply, e]

theorem exec_syncAck_of_not_due {s : State} (h : s.pendC = false ∨ s.pendA = true) :
    exec .syncAck s = .next s := by
  have hn : ¬ (s.pendC = true ∧ s.pendA = false) := by
    rcases h with h | h <;> simp [h]
  simp only [exec, execSyncAck, if_neg hn]

theorem exec_fftStep_of_not_enabled {s : State} {c : Ch}
    (h : s.ctrl.fftEn = false ∨ levelR (getCh s c).fa = 0) : exec (.fftStep c) s = .next s := by
  rcases h with h | h
  · simp [exec, execFftStep, h]
  · rcases fftChan_cases (fftSize s.fftOrder) s.floor (getCh s c) with ⟨-, e⟩ | ⟨hp, -⟩
    · simp [exec, execFftStep, e]
    · omega

/-- Settles O6: a listed turn is its agent's move, which `fetch`, `consume` and `idle` give agent by agent. -/
theorem stepRunsTheNextAgentsOperation : Obligations.StepRunsTheNextAgentsOperation := by
  refine ⟨?hostBus, ?audioSrc, ?audioSink, ?audio, ?syncAck, ?syncW2R, ?syncR2W, ?fft, ?hostIdle, ?srcIdle,
    ?reset, fun _ => step_lists_free_turn, fun _ => exec_take_of_empty, fun _ => exec_apply_of_not_due,
    fun _ => exec_syncAck_of_not_due, fun _ _ => exec_fftStep_of_not_enabled⟩
  case hostBus => exact fun s ts b q ht hq => (step_of_turns ht).trans (runTurn_hostBus hq)
  case audioSrc => exact fun s ts f q ht hq => (step_of_turns ht).trans (runTurn_audioSrc hq)
  case audioSink => exact fun s ts ht => (step_of_turns ht).trans (runTurn_of_fetch rfl)
  case audio => exact fun s ts ht => (step_of_turns ht).trans (runTurn_of_fetch rfl)
  case syncAck => exact fun s ts ht => (step_of_turns ht).trans (runTurn_of_fetch rfl)
  case syncW2R => exact fun s ts c ht => (step_of_turns ht).trans (runTurn_of_fetch rfl)
  case syncR2W => exact fun s ts c ht => (step_of_turns ht).trans (runTurn_of_fetch rfl)
  case fft => exact fun s ts c ht => (step_of_turns ht).trans (runTurn_of_fetch rfl)
  case hostIdle => exact fun s ts ht hq => (step_of_turns ht).trans (runTurn_hostBus_idle hq)
  case srcIdle => exact fun s ts ht hq => (step_of_turns ht).trans (runTurn_audioSrc_idle hq)
  case reset => exact fun s ts ht => (step_of_turns ht).trans (runTurn_of_no_fetch rfl)

end Sys2Proof.Machine
end

section
/-!
PROOF. The magnitudes binary32 holds, and rounding to the nearest of them (00_scope R9).

A magnitude is followed as its bits `n` (30:0): the patterns of one exponent and the first of the next one form a
grid `e * 2^23 + q` of spacing `2^e`, and rounding to a pattern is rounding to a whole number on that grid.
-/

namespace Sys2Proof.Machine

/-! ## Magnitude bits and their units -/

/-- The magnitude of the bits `n`, in units of 2^-149. -/
def unitsOfBits (n : Nat) : Nat :=
  if n / 2 ^ 23 = 0 then n % 2 ^ 23 else (2 ^ 23 + n % 2 ^ 23) * 2 ^ (n / 2 ^ 23 - 1)

theorem f32Mag_eq (a : F32) : f32Mag a = unitsOfBits (f32Abs a).toNat := by
  obtain ⟨hn, hfrac, -⟩ := f32_fields a
  have hdiv : (f32Abs a).toNat / 2 ^ 23 = f32Exp a := by omega
  have hmod : (f32Abs a).toNat % 2 ^ 23 = f32Frac a := by omega
  rw [unitsOfBits, hdiv, hmod, f32Mag]

/-- The patterns of exponent `e`, and the first of the next, are the multiples of `2^e` in their range. -/
theorem unitsOfBits_grid {e q : Nat} (hq : q ≤ 2 ^ 24) (h : e = 0 ∨ 2 ^ 23 ≤ q) :
    unitsOfBits (e * 2 ^ 23 + q) = q * 2 ^ e := by
  unfold unitsOfBits
  rcases Nat.lt_or_ge q (2 ^ 23) with hlt | hge
  · have he : e = 0 := by omega
    subst he
    rw [if_pos (by omega)]
    omega
  · rw [if_neg (by omega)]
    rcases Nat.eq_or_lt_of_le hq with heq | hlt
    · have hexp : (e * 2 ^ 23 + q) / 2 ^ 23 - 1 = e + 1 := by omega
      have hfrac : 2 ^ 23 + (e * 2 ^ 23 + q) % 2 ^ 23 = 2 ^ 23 := by omega
      rw [hexp, hfrac, heq]
      ring
    · rw [show (e * 2 ^ 23 + q) / 2 ^ 23 - 1 = e by omega,
        show 2 ^ 23 + (e * 2 ^ 23 + q) % 2 ^ 23 = q by omega]

theorem exists_grid (n : Nat) :
    ∃ e q, n = e * 2 ^ 23 + q ∧ q < 2 ^ 24 ∧ (e = 0 ∨ 2 ^ 23 ≤ q) := by
  rcases Nat.lt_or_ge n (2 ^ 23) with h | h
  · exact ⟨0, n, by omega, by omega, .inl rfl⟩
  · exact ⟨n / 2 ^ 23 - 1, 2 ^ 23 + n % 2 ^ 23, by omega, by omega, .inr (by omega)⟩

theorem unitsOfBits_strictMono : StrictMono unitsOfBits := by
  refine strictMono_nat_of_lt_succ fun n => ?_
  obtain ⟨e, q, rfl, hq, h⟩ := exists_grid n
  have hsucc : unitsOfBits (e * 2 ^ 23 + q + 1) = (q + 1) * 2 ^ e := by
    rw [Nat.add_assoc]
    exact unitsOfBits_grid (by omega) (by omega)
  rw [hsucc, unitsOfBits_grid (by omega) h]
  exact Nat.mul_lt_mul_of_pos_right (Nat.lt_succ_self q) (by positivity)

@[simp] theorem unitsOfBits_zero : unitsOfBits 0 = 0 := by decide

theorem unitsOfBits_eq_zero {n : Nat} : unitsOfBits n = 0 ↔ n = 0 := by
  rw [← unitsOfBits_zero, unitsOfBits_strictMono.injective.eq_iff]
  simp

/-- From the first normal pattern of exponent `e` on, every magnitude is a multiple of `2^e`. -/
theorem two_pow_dvd_unitsOfBits {e n : Nat} (h : e = 0 ∨ e * 2 ^ 23 + 2 ^ 23 ≤ n) :
    2 ^ e ∣ unitsOfBits n := by
  obtain ⟨e', q, rfl, hq, h'⟩ := exists_grid n
  rw [unitsOfBits_grid (by omega) h']
  exact Dvd.dvd.mul_left (pow_dvd_pow 2 (by omega)) q

/-! ## Rounding a ratio to a whole number -/

/-- `roundHalfEven` is at most half a unit off, and even when it is half a unit off. -/
theorem roundHalfEven_spec (num den : Nat) (h : 0 < den) :
    2 * ((num : Int) - roundHalfEven num den * den).natAbs ≤ den ∧
    (2 * ((num : Int) - roundHalfEven num den * den).natAbs = den → roundHalfEven num den % 2 = 0) := by
  have hdiv := Nat.div_add_mod num den
  have hmod := Nat.mod_lt num h
  have hq : ((num / den : Nat) : Int) * den = ((den * (num / den) : Nat) : Int) := by
    push_cast; ring
  simp only [roundHalfEven]
  split
  · rw [Nat.cast_succ, add_mul, hq]
    omega
  · omega

/-- The same as a distance between ratios. -/
theorem roundHalfEven_near (num den : Nat) (h : 0 < den) :
    |(num : ℚ) / den - roundHalfEven num den| ≤ 1 / 2 ∧
    (|(num : ℚ) / den - roundHalfEven num den| = 1 / 2 → roundHalfEven num den % 2 = 0) := by
  have hd : (0 : ℚ) < den := by exact_mod_cast h
  obtain ⟨hle, heven⟩ := roundHalfEven_spec num den h
  have habs : |(num : ℚ) / den - roundHalfEven num den| =
      (((num : Int) - roundHalfEven num den * den).natAbs : ℚ) / den := by
    rw [Nat.cast_natAbs, Int.cast_abs, ← abs_of_pos hd, ← abs_div, abs_of_pos hd]
    congr 1
    push_cast
    field_simp
  rw [habs, div_le_iff₀ hd, div_eq_iff hd.ne']
  constructor
  · have : (2 : ℚ) * ((num : Int) - roundHalfEven num den * den).natAbs ≤ den := by exact_mod_cast hle
    linarith
  · intro e
    refine heven ?_
    have : (2 : ℚ) * ((num : Int) - roundHalfEven num den * den).natAbs = den := by linarith
    exact_mod_cast this

/-- No whole number is nearer; of two equally near the even one is taken. -/
theorem roundHalfEven_nearest (num den : Nat) (h : 0 < den) (k : Nat) :
    |(num : ℚ) / den - roundHalfEven num den| ≤ |(num : ℚ) / den - k| ∧
    (|(num : ℚ) / den - roundHalfEven num den| = |(num : ℚ) / den - k| → k ≠ roundHalfEven num den →
      roundHalfEven num den % 2 = 0) := by
  obtain ⟨hle, heven⟩ := roundHalfEven_near num den h
  rcases eq_or_ne k (roundHalfEven num den) with rfl | hk
  · exact ⟨le_rfl, fun _ hne => absurd rfl hne⟩
  · have hgap : (1 : ℚ) ≤ |(k : ℚ) - roundHalfEven num den| := by
      have : (1 : Int) ≤ |(k : Int) - roundHalfEven num den| := Int.one_le_abs (by omega)
      exact_mod_cast this
    have htri := abs_sub_le (k : ℚ) ((num : ℚ) / den) (roundHalfEven num den)
    rw [abs_sub_comm (k : ℚ) ((num : ℚ) / den)] at htri
    exact ⟨by linarith, fun e _ => heven (by linarith)⟩

theorem roundHalfEven_le {num den k : Nat} (h : num < k * den) : roundHalfEven num den ≤ k := by
  have : num / den < k := Nat.div_lt_of_lt_mul (by rwa [Nat.mul_comm])
  simp only [roundHalfEven]
  split <;> omega

theorem le_roundHalfEven {num den k : Nat} (hden : 0 < den) (h : k * den ≤ num) :
    k ≤ roundHalfEven num den := by
  have : k ≤ num / den := (Nat.le_div_iff_mul_le hden).mpr h
  simp only [roundHalfEven]
  split <;> omega

/-- An even whole number is reached from half a unit below it on. -/
theorem even_le_roundHalfEven_iff {num den k : Nat} (hden : 0 < den) (hk : k % 2 = 0) :
    k ≤ roundHalfEven num den ↔ (k : ℚ) - 1 / 2 ≤ num / den := by
  obtain ⟨hnear, heven⟩ := roundHalfEven_near num den hden
  obtain ⟨hlo, hhi⟩ := abs_le.mp hnear
  constructor
  · intro h
    have : (k : ℚ) ≤ roundHalfEven num den := by exact_mod_cast h
    linarith
  · intro h
    by_contra hlt
    have hle : (roundHalfEven num den : ℚ) + 1 ≤ k := by exact_mod_cast Nat.lt_of_not_le hlt
    have hodd : k = roundHalfEven num den + 1 := by
      have : (k : ℚ) = (roundHalfEven num den + 1 : Nat) := by push_cast; linarith
      exact_mod_cast this
    have := heven (by rw [abs_of_nonneg] <;> linarith)
    omega

/-! ## Rounding a ratio of units to a pattern -/

/-- The exponent that rounding `num / den` units works at: the spacing is `2^roundExp` units. -/
def roundExp (num den : Nat) : Nat := (num / den).log2 - 23

/-- The whole number of spacings that `num / den` units round to. -/
def roundQuot (num den : Nat) : Nat := roundHalfEven num (den * 2 ^ roundExp num den)

/-- The magnitude bits before the clamp to infinity. -/
def roundBits (num den : Nat) : Nat := roundExp num den * 2 ^ 23 + roundQuot num den

theorem roundMag_eq_min (num den : Nat) : roundMag num den = min (roundBits num den) 0x7F800000 := rfl

section
variable {num den : Nat} (hden : 0 < den)
include hden

/-- The ratio is below 2^24 spacings, and from 2^23 on unless it is subnormal. -/
theorem ratio_range :
    num < 2 ^ 24 * (den * 2 ^ roundExp num den) ∧
    (roundExp num den = 0 ∨ 2 ^ 23 * (den * 2 ^ roundExp num den) ≤ num) := by
  have hlt : num < den * 2 ^ ((num / den).log2 + 1) :=
    (Nat.div_lt_iff_lt_mul hden).mp Nat.lt_log2_self |>.trans_eq (Nat.mul_comm _ _)
  constructor
  · calc num < den * 2 ^ ((num / den).log2 + 1) := hlt
      _ ≤ den * 2 ^ (24 + roundExp num den) :=
        Nat.mul_le_mul_left den (Nat.pow_le_pow_right (by omega) (by unfold roundExp; omega))
      _ = 2 ^ 24 * (den * 2 ^ roundExp num den) := by rw [pow_add]; ring
  · rcases Nat.eq_zero_or_pos (roundExp num den) with h0 | hpos
    · exact .inl h0
    · have hne : num / den ≠ 0 := by
        intro h
        simp [roundExp, h] at hpos
      refine .inr ?_
      calc 2 ^ 23 * (den * 2 ^ roundExp num den) = 2 ^ (23 + roundExp num den) * den := by
            rw [pow_add]; ring
        _ = 2 ^ (num / den).log2 * den := by
            congr 2; unfold roundExp at hpos ⊢; omega
        _ ≤ num / den * den := Nat.mul_le_mul_right den (Nat.log2_self_le hne)
        _ ≤ num := Nat.div_mul_le_self num den

/-- The rounded quotient lies on the grid of its exponent. -/
theorem roundQuot_range : roundQuot num den ≤ 2 ^ 24 ∧ (roundExp num den = 0 ∨ 2 ^ 23 ≤ roundQuot num den) := by
  obtain ⟨hhi, hlo⟩ := ratio_range (num := num) hden
  exact ⟨roundHalfEven_le hhi, hlo.imp_right fun h => le_roundHalfEven (by positivity) h⟩

theorem unitsOfBits_roundBits :
    unitsOfBits (roundBits num den) = roundQuot num den * 2 ^ roundExp num den :=
  unitsOfBits_grid (roundQuot_range hden).1 (roundQuot_range hden).2

/-- The ratio in spacings is the ratio in units over the spacing. -/
theorem abs_ratio_sub_eq (k : ℚ) :
    |(num : ℚ) / den - k * 2 ^ roundExp num den| =
      |(num : ℚ) / (den * 2 ^ roundExp num den : Nat) - k| * 2 ^ roundExp num den := by
  have hd : (den : ℚ) ≠ 0 := by exact_mod_cast hden.ne'
  have hp : (0 : ℚ) < 2 ^ roundExp num den := by positivity
  rw [← abs_of_pos hp, ← abs_mul, abs_of_pos hp]
  congr 1
  push_cast
  field_simp

/-- Before the clamp, no magnitude is nearer than the rounded one, and of two equally near the even one is
taken. -/
theorem roundBits_nearest (n : Nat) :
    |(num : ℚ) / den - unitsOfBits (roundBits num den)| ≤ |(num : ℚ) / den - unitsOfBits n| ∧
    (|(num : ℚ) / den - unitsOfBits (roundBits num den)| = |(num : ℚ) / den - unitsOfBits n| →
      n ≠ roundBits num den → roundBits num den % 2 = 0) := by
  have hp : (0 : ℚ) < 2 ^ roundExp num den := by positivity
  have hd : 0 < den * 2 ^ roundExp num den := by positivity
  have hb := unitsOfBits_roundBits (num := num) hden
  have hbq : (unitsOfBits (roundBits num den) : ℚ) = roundQuot num den * 2 ^ roundExp num den := by
    exact_mod_cast hb
  have heven : roundQuot num den % 2 = 0 → roundBits num den % 2 = 0 := by
    unfold roundBits; omega
  by_cases hn : roundExp num den = 0 ∨ roundExp num den * 2 ^ 23 + 2 ^ 23 ≤ n
  · obtain ⟨k, hk⟩ := two_pow_dvd_unitsOfBits hn
    have hkq : (unitsOfBits n : ℚ) = k * 2 ^ roundExp num den := by
      rw [hk]; push_cast; ring
    obtain ⟨hle, htie⟩ := roundHalfEven_nearest num _ hd k
    rw [hbq, hkq, abs_ratio_sub_eq hden, abs_ratio_sub_eq hden, mul_le_mul_iff_left₀ hp,
      mul_left_inj' hp.ne']
    refine ⟨hle, fun he hne => heven (htie he fun hkr => hne ?_)⟩
    apply unitsOfBits_strictMono.injective
    rw [hb, hk, hkr, Nat.mul_comm, roundQuot]
  · obtain ⟨he, hn⟩ := not_or.mp hn
    have hlow := (ratio_range (num := num) hden).2.resolve_left he
    have hfirst : unitsOfBits (roundExp num den * 2 ^ 23 + 2 ^ 23) = 2 ^ 23 * 2 ^ roundExp num den :=
      unitsOfBits_grid (by omega) (.inr le_rfl)
    have hlt : (unitsOfBits n : ℚ) < 2 ^ 23 * 2 ^ roundExp num den := by
      have := unitsOfBits_strictMono (Nat.lt_of_not_le hn)
      rw [hfirst] at this
      exact_mod_cast this
    have hratio : 2 ^ 23 * 2 ^ roundExp num den ≤ (num : ℚ) / den := by
      rw [le_div_iff₀ (by exact_mod_cast hden)]
      have : 2 ^ 23 * 2 ^ roundExp num den * den ≤ num := by
        rw [Nat.mul_assoc, Nat.mul_comm (2 ^ roundExp num den)]; exact hlow
      exact_mod_cast this
    have hnear := (roundHalfEven_nearest num _ hd (2 ^ 23)).1
    have hstrict : |(num : ℚ) / den - unitsOfBits (roundBits num den)| < |(num : ℚ) / den - unitsOfBits n| := by
      calc |(num : ℚ) / den - unitsOfBits (roundBits num den)|
          ≤ |(num : ℚ) / den - (2 ^ 23 : Nat) * 2 ^ roundExp num den| := by
            rw [hbq, abs_ratio_sub_eq hden, abs_ratio_sub_eq hden]
            exact mul_le_mul_of_nonneg_right hnear hp.le
        _ = (num : ℚ) / den - 2 ^ 23 * 2 ^ roundExp num den := by
            push_cast
            exact abs_of_nonneg (sub_nonneg.mpr hratio)
        _ < (num : ℚ) / den - unitsOfBits n := by linarith
        _ ≤ |(num : ℚ) / den - unitsOfBits n| := le_abs_self _
    exact ⟨hstrict.le, fun he' _ => absurd he' hstrict.ne⟩

/-- Rounding overflows exactly from half a unit above the largest finite magnitude on. -/
theorem roundBits_overflow :
    0x7F800000 ≤ roundBits num den ↔ ((2 ^ 25 - 1) * 2 ^ 252 : ℚ) ≤ (num : ℚ) / den := by
  have hd : (0 : ℚ) < den := by exact_mod_cast hden
  obtain ⟨hhi, hlo⟩ := ratio_range (num := num) hden
  obtain ⟨hqhi, hqlo⟩ := roundQuot_range (num := num) hden
  rcases lt_trichotomy (roundExp num den) 253 with he | he | he
  · have hratio : (num : ℚ) / den < (2 ^ 25 - 1) * 2 ^ 252 := by
      have hpow : (2 : ℚ) ^ roundExp num den ≤ 2 ^ 252 := pow_le_pow_right₀ (by norm_num) (by omega)
      have hhi' : (num : ℚ) < 2 ^ 24 * (den * 2 ^ roundExp num den) := by exact_mod_cast hhi
      rw [div_lt_iff₀ hd]
      calc (num : ℚ) < 2 ^ 24 * 2 ^ roundExp num den * den := by linarith
        _ ≤ 2 ^ 24 * 2 ^ 252 * den := by gcongr
        _ ≤ (2 ^ 25 - 1) * 2 ^ 252 * den := by gcongr; norm_num
    refine iff_of_false ?_ (not_le.mpr hratio)
    unfold roundBits
    omega
  · have hbits : 0x7F800000 ≤ roundBits num den ↔ 2 ^ 24 ≤ roundQuot num den := by
      unfold roundBits
      omega
    rw [hbits, roundQuot, even_le_roundHalfEven_iff (by positivity) (by norm_num), he]
    rw [le_div_iff₀ (by positivity), le_div_iff₀ hd]
    push_cast
    constructor <;> intro h <;> linarith
  · have hlow : 2 ^ 23 * (den * 2 ^ roundExp num den) ≤ num := hlo.resolve_left (by omega)
    have hratio : ((2 ^ 25 - 1) * 2 ^ 252 : ℚ) ≤ (num : ℚ) / den := by
      have hpow : (2 : ℚ) ^ 254 ≤ 2 ^ roundExp num den := pow_le_pow_right₀ (by norm_num) (by omega)
      have hlow' : (2 ^ 23 * (den * 2 ^ roundExp num den) : ℚ) ≤ num := by exact_mod_cast hlow
      rw [le_div_iff₀ hd]
      calc ((2 ^ 25 - 1) * 2 ^ 252 * den : ℚ) ≤ 2 ^ 23 * 2 ^ 254 * den := by gcongr ?_ * den; norm_num
        _ ≤ 2 ^ 23 * 2 ^ roundExp num den * den := by gcongr
        _ ≤ num := by linarith
    refine iff_of_true ?_ hratio
    unfold roundBits
    omega

end

/-- A magnitude binary32 holds exactly rounds to its own bits. -/
theorem roundBits_unitsOfBits (n : Nat) {den : Nat} (hden : 0 < den) :
    roundBits (unitsOfBits n * den) den = n := by
  by_contra hne
  have hd : (den : ℚ) ≠ 0 := by exact_mod_cast hden.ne'
  have hratio : ((unitsOfBits n * den : Nat) : ℚ) / den = unitsOfBits n := by
    push_cast; field_simp
  have hnear := (roundBits_nearest (num := unitsOfBits n * den) hden n).1
  rw [hratio, sub_self, abs_zero, abs_nonpos_iff, sub_eq_zero] at hnear
  exact hne (unitsOfBits_strictMono.injective (by exact_mod_cast hnear.symm))

end Sys2Proof.Machine
end

section
/-!
PROOF. The values of patterns, and packing a rounded magnitude as an IEEE rounding (00_scope R9).
-/

namespace Sys2Proof.Machine

open Sys2Proof.Safety

/-! ## Finite patterns, infinities and NaN by their magnitude bits -/

theorem f32IsFinite_iff (a : F32) : f32IsFinite a = true ↔ (f32Abs a).toNat < 0x7F800000 := by
  obtain ⟨hn, hfrac, hexp⟩ := f32_fields a
  simp only [f32IsFinite, bne_iff_ne]
  omega

theorem f32IsInf_iff (a : F32) : f32IsInf a = true ↔ (f32Abs a).toNat = 0x7F800000 := by
  obtain ⟨hn, hfrac, hexp⟩ := f32_fields a
  simp only [f32IsInf, Bool.and_eq_true, beq_iff_eq]
  omega

theorem f32IsNaN_iff (a : F32) : f32IsNaN a = true ↔ 0x7F800000 < (f32Abs a).toNat := by
  obtain ⟨hn, hfrac, hexp⟩ := f32_fields a
  simp only [f32IsNaN, Bool.and_eq_true, beq_iff_eq, bne_iff_ne]
  omega

theorem f32IsZero_iff_abs (a : F32) : f32IsZero a = true ↔ (f32Abs a).toNat = 0 := by
  obtain ⟨hn, hfrac, hexp⟩ := f32_fields a
  simp only [f32IsZero, Bool.and_eq_true, beq_iff_eq]
  omega

theorem f32IsInf_cases {a : F32} (h : f32IsInf a = true) :
    f32IsNaN a = false ∧ f32IsZero a = false ∧ a = f32Pack (f32Sign a) 0x7F800000 := by
  have habs := (f32IsInf_iff a).mp h
  refine ⟨?_, ?_, ?_⟩
  · rw [← Bool.not_eq_true, f32IsNaN_iff, habs]
    omega
  · rw [← Bool.not_eq_true, f32IsZero_iff_abs, habs]
    omega
  · rw [← habs, f32Pack_abs]

@[simp] theorem f32IsFinite_neg (a : F32) : f32IsFinite (f32Neg a) = f32IsFinite a := by
  rw [Bool.eq_iff_iff, f32IsFinite_iff, f32IsFinite_iff, f32Abs_neg]

@[simp] theorem f32IsInf_neg (a : F32) : f32IsInf (f32Neg a) = f32IsInf a := by
  rw [Bool.eq_iff_iff, f32IsInf_iff, f32IsInf_iff, f32Abs_neg]

@[simp] theorem f32IsNaN_neg (a : F32) : f32IsNaN (f32Neg a) = f32IsNaN a := by
  rw [Bool.eq_iff_iff, f32IsNaN_iff, f32IsNaN_iff, f32Abs_neg]

/-! ## Values -/

/-- The ratio `r` with the sign `neg`. -/
def signed (neg : Bool) (r : ℚ) : ℚ := if neg then -r else r

@[simp] theorem signed_false (r : ℚ) : signed false r = r := rfl

@[simp] theorem signed_true (r : ℚ) : signed true r = -r := rfl

@[simp] theorem abs_signed (neg : Bool) (r : ℚ) : |signed neg r| = |r| := by
  cases neg <;> simp

theorem signed_eq_zero {neg : Bool} {r : ℚ} : signed neg r = 0 ↔ r = 0 := by
  cases neg <;> simp

theorem signed_mul (a b : Bool) (x y : ℚ) : signed a x * signed b y = signed (a != b) (x * y) := by
  cases a <;> cases b <;> simp

theorem signed_div (a b : Bool) (x y : ℚ) : signed a x / signed b y = signed (a != b) (x / y) := by
  cases a <;> cases b <;> simp [neg_div, div_neg]

/-- A number is its magnitude with its own sign. -/
theorem signed_lt_zero (x : ℚ) : signed (decide (x < 0)) |x| = x := by
  by_cases h : x < 0
  · simp [h, abs_of_neg h]
  · simp [h, abs_of_nonneg (not_lt.mp h)]

theorem f32Rat_eq_signed (a : F32) : f32Rat a = signed (f32Sign a) ((f32Mag a : ℚ) / 2 ^ 149) := by
  unfold f32Rat f32Units
  cases f32Sign a <;> simp [neg_div]

theorem f32Mag_pack (neg : Bool) {n : Nat} (h : n < 2 ^ 31) : f32Mag (f32Pack neg n) = unitsOfBits n := by
  rw [f32Mag_eq, f32Abs_pack neg h]

@[simp] theorem f32Mag_neg (a : F32) : f32Mag (f32Neg a) = f32Mag a := by
  rw [f32Mag_eq, f32Mag_eq, f32Abs_neg]

@[simp] theorem f32Units_neg (a : F32) : f32Units (f32Neg a) = -f32Units a := by
  unfold f32Units
  rw [f32Sign_neg, f32Mag_neg]
  cases f32Sign a <;> simp

@[simp] theorem f32Rat_neg (a : F32) : f32Rat (f32Neg a) = -f32Rat a := by
  simp [f32Rat, neg_div]

theorem f32Rat_eq_zero {a : F32} : f32Rat a = 0 ↔ f32IsZero a = true := by
  rw [f32Rat_eq_signed, signed_eq_zero, f32IsZero_iff_abs, ← unitsOfBits_eq_zero, ← f32Mag_eq]
  simp

/-! ## Rounding with a sign -/

/-- The nearest magnitude with the right sign is nearest among the numbers of both signs, and equally near ones
have equally near magnitudes. -/
theorem signed_nearest {x v w : ℚ} (hx : 0 ≤ x) (hw : 0 ≤ w) (hzero : |x - v| ≤ |x - 0|)
    (hnear : |x - v| ≤ |x - w|) (neg sw : Bool) :
    |signed neg x - signed neg v| ≤ |signed neg x - signed sw w| ∧
    (|signed neg x - signed neg v| = |signed neg x - signed sw w| → signed sw w ≠ signed neg v →
      |x - v| = |x - w| ∧ w ≠ v) := by
  have hsame (y : ℚ) : |signed neg x - signed neg y| = |x - y| := by
    cases neg
    · rfl
    · rw [signed_true, signed_true, neg_sub_neg, abs_sub_comm]
  rcases eq_or_ne sw neg with rfl | hs
  · rw [hsame, hsame]
    exact ⟨hnear, fun e hne => ⟨e, fun h => hne (h ▸ rfl)⟩⟩
  · have hopp : |signed neg x - signed sw w| = x + w := by
      rw [show sw = !neg by cases sw <;> cases neg <;> simp_all]
      cases neg <;> simp only [signed_true, signed_false, Bool.not_true, Bool.not_false]
      · rw [sub_neg_eq_add, abs_of_nonneg (by linarith)]
      · rw [← neg_add', abs_neg, abs_of_nonneg (by linarith)]
    have htri : |x - w| ≤ x + w := abs_sub_le_iff.mpr ⟨by linarith, by linarith⟩
    rw [hsame, hopp]
    refine ⟨hnear.trans htri, fun e hne => ?_⟩
    rw [sub_zero, abs_of_nonneg hx] at hzero
    have hw0 : w = 0 := by linarith
    subst hw0
    refine ⟨by rw [e, sub_zero, abs_of_nonneg hx, add_zero], fun hv => hne ?_⟩
    rw [← hv, signed_eq_zero.mpr rfl, signed_eq_zero.mpr rfl]

theorem roundMag_le (num den : Nat) : roundMag num den ≤ 0x7F800000 := by
  rw [roundMag_eq_min]
  exact Nat.min_le_right _ _

theorem f32Abs_pack_roundMag (neg : Bool) (num den : Nat) :
    (f32Abs (f32Pack neg (roundMag num den))).toNat = roundMag num den :=
  f32Abs_pack neg (by have := roundMag_le num den; omega)

theorem f32_getLsbD_zero (neg : Bool) {n : Nat} (h : n < 2 ^ 31) (heven : n % 2 = 0) :
    (f32Pack neg n).getLsbD 0 = false := by
  rw [BitVec.getLsbD, f32Pack_toNat neg h, Nat.testBit_zero]
  simp
  omega

/-- A rounded magnitude packed with a sign is the exact ratio with that sign, rounded once. -/
theorem isRounding_pack (neg : Bool) (num : Nat) {den : Nat} (hden : 0 < den) :
    IsRounding (signed neg ((num : ℚ) / den / 2 ^ 149)) neg (f32Pack neg (roundMag num den)) := by
  have hmag := roundMag_eq_min num den
  have hle := roundMag_le num den
  have hlt : roundMag num den < 2 ^ 31 := by omega
  have hratio : (0 : ℚ) ≤ (num : ℚ) / den := by positivity
  have hover : ((2 ^ 25 - 1) * 2 ^ 103 ≤ |signed neg ((num : ℚ) / den / 2 ^ 149)|) ↔
      0x7F800000 ≤ roundBits num den := by
    rw [abs_signed, abs_of_nonneg (by positivity), roundBits_overflow hden, le_div_iff₀ (by positivity)]
    norm_num
  refine ⟨f32Sign_pack neg hlt, ?_⟩
  split
  next h =>
    apply BitVec.eq_of_toNat_eq
    rw [f32Abs_pack_roundMag, hmag, Nat.min_eq_right (hover.mp h)]
    rfl
  next h =>
    have hfin : roundBits num den < 0x7F800000 := Nat.lt_of_not_le fun hge => h (hover.mpr hge)
    have hbits : roundMag num den = roundBits num den := by omega
    refine ⟨by rw [f32IsFinite_iff, f32Abs_pack_roundMag]; omega, fun p _ => ?_⟩
    have hscale (n : Nat) : |(num : ℚ) / den / 2 ^ 149 - (unitsOfBits n : ℚ) / 2 ^ 149| =
        |(num : ℚ) / den - unitsOfBits n| / 2 ^ 149 := by
      rw [← sub_div, abs_div, abs_of_pos (a := (2 : ℚ) ^ 149) (by positivity)]
    have hnear (n : Nat) : |(num : ℚ) / den / 2 ^ 149 - (unitsOfBits (roundBits num den) : ℚ) / 2 ^ 149| ≤
        |(num : ℚ) / den / 2 ^ 149 - (unitsOfBits n : ℚ) / 2 ^ 149| := by
      rw [hscale, hscale]
      exact div_le_div_of_nonneg_right (roundBits_nearest hden n).1 (by positivity)
    have hzero : |(num : ℚ) / den / 2 ^ 149 - (unitsOfBits (roundBits num den) : ℚ) / 2 ^ 149| ≤
        |(num : ℚ) / den / 2 ^ 149 - 0| := by
      simpa using hnear 0
    rw [f32Rat_eq_signed, f32Rat_eq_signed p, f32Sign_pack neg hlt, f32Mag_pack neg hlt, hbits, f32Mag_eq p]
    obtain ⟨hsnear, hstie⟩ := signed_nearest (by positivity) (by positivity) hzero
      (hnear (f32Abs p).toNat) neg (f32Sign p)
    refine ⟨hsnear, fun htie hne => ?_⟩
    obtain ⟨hmagTie, hmagNe⟩ := hstie htie hne
    rw [hscale, hscale, div_left_inj' (by positivity)] at hmagTie
    exact f32_getLsbD_zero neg (by omega) ((roundBits_nearest hden _).2 hmagTie
      fun h => hmagNe (by rw [h]))

/-- A finite magnitude rounds to its own bits, whatever denominator it is written with. -/
theorem roundMag_mul_f32Mag {a : F32} (ha : f32IsFinite a = true) {den : Nat} (hden : 0 < den) :
    roundMag (f32Mag a * den) den = (f32Abs a).toNat := by
  have := (f32IsFinite_iff a).mp ha
  rw [roundMag_eq_min, f32Mag_eq, roundBits_unitsOfBits _ hden]
  omega

end Sys2Proof.Machine
end

section
/-!
PROOF. The four operations and the comparisons on finite, infinite and NaN operands (00_scope R9).
-/

namespace Sys2Proof.Machine

open Sys2Proof.Safety

/-! ## Finite operands: the exact result, rounded once -/

theorem fadd_finite {a b : F32} (ha : f32IsFinite a = true) (hb : f32IsFinite b = true) :
    fadd a b = if f32Units a + f32Units b = 0 then f32Pack (f32Sign a && f32Sign b) 0
      else f32Pack (decide (f32Units a + f32Units b < 0)) (roundMag (f32Units a + f32Units b).natAbs 1) := by
  obtain ⟨na, ia⟩ := f32_finite_cases ha
  obtain ⟨nb, ib⟩ := f32_finite_cases hb
  simp [fadd, na, ia, nb, ib]

theorem fmul_finite {a b : F32} (ha : f32IsFinite a = true) (hb : f32IsFinite b = true) :
    fmul a b = f32Pack (f32Sign a != f32Sign b) (roundMag (f32Mag a * f32Mag b) (2 ^ 149)) := by
  obtain ⟨na, ia⟩ := f32_finite_cases ha
  obtain ⟨nb, ib⟩ := f32_finite_cases hb
  simp only [fmul, na, ia, nb, ib, Bool.or_self, Bool.false_eq_true, if_false]

theorem fdiv_finite {a b : F32} (ha : f32IsFinite a = true) (hb : f32IsFinite b = true)
    (hz : f32IsZero b = false) :
    fdiv a b = f32Pack (f32Sign a != f32Sign b) (roundMag (f32Mag a * 2 ^ 149) (f32Mag b)) := by
  obtain ⟨na, ia⟩ := f32_finite_cases ha
  obtain ⟨nb, ib⟩ := f32_finite_cases hb
  simp only [fdiv, na, ia, nb, ib, hz, Bool.or_self, Bool.false_eq_true, if_false]

theorem fdiv_zero {a b : F32} (ha : f32IsFinite a = true) (hz : f32IsZero b = true) :
    fdiv a b = if f32IsZero a then f32NaN else f32Pack (f32Sign a != f32Sign b) 0x7F800000 := by
  obtain ⟨na, ia⟩ := f32_finite_cases ha
  have hb : f32IsFinite b = true := by
    rw [f32IsFinite_iff, (f32IsZero_iff_abs b).mp hz]
    omega
  obtain ⟨nb, ib⟩ := f32_finite_cases hb
  simp only [fdiv, na, ia, nb, ib, hz, Bool.or_self, Bool.false_eq_true, if_false, if_true]

/-- A zero result is the signed zero. -/
theorem isRounding_zero (neg : Bool) : IsRounding 0 neg (f32Pack neg 0) := by
  have h := isRounding_pack neg 0 Nat.one_pos
  have hmag : roundMag 0 1 = 0 := by decide
  rw [hmag] at h
  simpa [signed_eq_zero.mpr rfl] using h

theorem f32Rat_add (a b : F32) : f32Rat a + f32Rat b = ((f32Units a + f32Units b : Int) : ℚ) / 2 ^ 149 := by
  simp [f32Rat, add_div]

theorem fadd_isRounding {a b : F32} (ha : f32IsFinite a = true) (hb : f32IsFinite b = true) :
    IsRounding (f32Rat a + f32Rat b)
      (if f32Rat a + f32Rat b = 0 then f32Sign a && f32Sign b else decide (f32Rat a + f32Rat b < 0))
      (fadd a b) := by
  rw [fadd_finite ha hb, f32Rat_add]
  generalize f32Units a + f32Units b = u
  have hp : (0 : ℚ) < 2 ^ 149 := by positivity
  by_cases hu : u = 0
  · subst hu
    simpa using isRounding_zero _
  · have hne : (u : ℚ) / 2 ^ 149 ≠ 0 := div_ne_zero (by exact_mod_cast hu) hp.ne'
    have hneg : ((u : ℚ) / 2 ^ 149 < 0) ↔ u < 0 := by
      rw [div_lt_iff₀ hp, zero_mul]
      exact_mod_cast Iff.rfl
    have hval : signed (decide (u < 0)) ((u.natAbs : ℚ) / (1 : Nat) / 2 ^ 149) = (u : ℚ) / 2 ^ 149 := by
      have h := signed_lt_zero ((u : ℚ) / 2 ^ 149)
      rw [abs_div, abs_of_pos hp, decide_eq_decide.mpr hneg] at h
      rw [← h, Nat.cast_natAbs, Int.cast_abs, Nat.cast_one, div_one]
    rw [if_neg hu, if_neg hne, decide_eq_decide.mpr hneg, ← hval]
    exact isRounding_pack _ _ Nat.one_pos

theorem fsub_isRounding {a b : F32} (ha : f32IsFinite a = true) (hb : f32IsFinite b = true) :
    IsRounding (f32Rat a - f32Rat b)
      (if f32Rat a - f32Rat b = 0 then f32Sign a && !f32Sign b else decide (f32Rat a - f32Rat b < 0))
      (fsub a b) := by
  have h := fadd_isRounding ha (b := f32Neg b) (by rwa [f32IsFinite_neg])
  rwa [f32Rat_neg, f32Sign_neg, ← sub_eq_add_neg] at h

theorem fmul_isRounding {a b : F32} (ha : f32IsFinite a = true) (hb : f32IsFinite b = true) :
    IsRounding (f32Rat a * f32Rat b) (f32Sign a != f32Sign b) (fmul a b) := by
  rw [fmul_finite ha hb, f32Rat_eq_signed, f32Rat_eq_signed, signed_mul]
  have h := isRounding_pack (f32Sign a != f32Sign b) (f32Mag a * f32Mag b) (den := 2 ^ 149) (by positivity)
  convert h using 2
  rw [Nat.cast_mul, Nat.cast_pow, Nat.cast_ofNat, div_mul_div_comm, div_div]

theorem fdiv_isRounding {a b : F32} (ha : f32IsFinite a = true) (hb : f32IsFinite b = true)
    (hne : f32Rat b ≠ 0) : IsRounding (f32Rat a / f32Rat b) (f32Sign a != f32Sign b) (fdiv a b) := by
  have hz : f32IsZero b = false := by rwa [Ne, f32Rat_eq_zero, Bool.not_eq_true] at hne
  have hmag : f32Mag b ≠ 0 := by
    intro h
    rw [f32Rat_eq_signed, h] at hne
    exact hne (signed_eq_zero.mpr (by simp))
  rw [fdiv_finite ha hb hz, f32Rat_eq_signed, f32Rat_eq_signed, signed_div]
  have h := isRounding_pack (f32Sign a != f32Sign b) (f32Mag a * 2 ^ 149) (Nat.pos_of_ne_zero hmag)
  convert h using 2
  rw [Nat.cast_mul, Nat.cast_pow, Nat.cast_ofNat]
  field_simp

/-! ## Comparisons -/

theorem f32Key_eq (a : F32) :
    f32Key a = if f32Sign a then -((f32Abs a).toNat : Int) else ((f32Abs a).toNat : Int) := rfl

/-- The order of the keys is the order of the values. -/
theorem f32Key_lt_iff (a b : F32) : f32Key a < f32Key b ↔ f32Rat a < f32Rat b := by
  have hunits : f32Rat a < f32Rat b ↔ f32Units a < f32Units b := by
    unfold f32Rat
    rw [div_lt_div_iff_of_pos_right (by positivity)]
    exact_mod_cast Iff.rfl
  have hlt := unitsOfBits_strictMono.lt_iff_lt (a := (f32Abs a).toNat) (b := (f32Abs b).toNat)
  have hgt := unitsOfBits_strictMono.lt_iff_lt (a := (f32Abs b).toNat) (b := (f32Abs a).toNat)
  have ha := unitsOfBits_eq_zero (n := (f32Abs a).toNat)
  have hb := unitsOfBits_eq_zero (n := (f32Abs b).toNat)
  rw [hunits]
  unfold f32Units f32Key
  rw [f32Mag_eq, f32Mag_eq]
  cases f32Sign a <;> cases f32Sign b <;>
    simp only [Bool.false_eq_true, if_false, if_true] <;> omega

theorem flt_iff_key {a b : F32} (ha : f32IsNaN a = false) (hb : f32IsNaN b = false) :
    flt a b = true ↔ f32Key a < f32Key b := by
  simp [flt, ha, hb]

theorem fle_iff_key {a b : F32} (ha : f32IsNaN a = false) (hb : f32IsNaN b = false) :
    fle a b = true ↔ f32Key a ≤ f32Key b := by
  simp [fle, ha, hb]

theorem flt_iff_rat {a b : F32} (ha : f32IsFinite a = true) (hb : f32IsFinite b = true) :
    flt a b = true ↔ f32Rat a < f32Rat b := by
  rw [flt_iff_key (f32_finite_cases ha).1 (f32_finite_cases hb).1, f32Key_lt_iff]

theorem fle_iff_rat {a b : F32} (ha : f32IsFinite a = true) (hb : f32IsFinite b = true) :
    fle a b = true ↔ f32Rat a ≤ f32Rat b := by
  rw [fle_iff_key (f32_finite_cases ha).1 (f32_finite_cases hb).1, ← not_lt, f32Key_lt_iff, not_lt]

/-- The key of an infinity is beyond the keys of every finite pattern. -/
theorem f32Key_inf {a : F32} (h : f32IsInf a = true) :
    f32Key a = if f32Sign a then -0x7F800000 else 0x7F800000 := by
  rw [f32Key_eq, (f32IsInf_iff a).mp h]
  rfl

theorem f32Key_finite {a : F32} (h : f32IsFinite a = true) :
    -0x7F800000 < f32Key a ∧ f32Key a < 0x7F800000 := by
  have := (f32IsFinite_iff a).mp h
  rw [f32Key_eq]
  split <;> omega

/-! ## NaN operands -/

theorem fadd_of_isNaN {a b : F32} (h : f32IsNaN a = true ∨ f32IsNaN b = true) : fadd a b = f32NaN := by
  simp [fadd, h]

theorem fsub_of_isNaN {a b : F32} (h : f32IsNaN a = true ∨ f32IsNaN b = true) : fsub a b = f32NaN :=
  fadd_of_isNaN (by rwa [f32IsNaN_neg])

theorem fmul_of_isNaN {a b : F32} (h : f32IsNaN a = true ∨ f32IsNaN b = true) : fmul a b = f32NaN := by
  simp [fmul, h]

theorem fdiv_of_isNaN {a b : F32} (h : f32IsNaN a = true ∨ f32IsNaN b = true) : fdiv a b = f32NaN := by
  simp [fdiv, h]

theorem flt_of_isNaN {a b : F32} (h : f32IsNaN a = true ∨ f32IsNaN b = true) : flt a b = false := by
  rcases h with h | h <;> simp [flt, h]

theorem fle_of_isNaN {a b : F32} (h : f32IsNaN a = true ∨ f32IsNaN b = true) : fle a b = false := by
  rcases h with h | h <;> simp [fle, h]

/-! ## One infinite operand -/

section
variable {a b : F32} (ha : f32IsInf a = true) (hb : f32IsFinite b = true)
include ha hb

theorem fadd_inf_finite : fadd a b = f32Pack (f32Sign a) 0x7F800000 := by
  obtain ⟨na, -, ea⟩ := f32IsInf_cases ha
  obtain ⟨nb, ib⟩ := f32_finite_cases hb
  rw [← ea]
  simp [fadd, na, nb, ha, ib]

theorem fadd_finite_inf : fadd b a = f32Pack (f32Sign a) 0x7F800000 := by
  obtain ⟨na, -, ea⟩ := f32IsInf_cases ha
  obtain ⟨nb, ib⟩ := f32_finite_cases hb
  rw [← ea]
  simp [fadd, na, nb, ha, ib]

theorem fsub_inf_finite : fsub a b = f32Pack (f32Sign a) 0x7F800000 :=
  fadd_inf_finite ha (b := f32Neg b) (by rwa [f32IsFinite_neg])

theorem fsub_finite_inf : fsub b a = f32Pack (!f32Sign a) 0x7F800000 := by
  rw [← f32Sign_neg]
  exact fadd_finite_inf (a := f32Neg a) (by rwa [f32IsInf_neg]) hb

theorem fmul_inf_finite :
    fmul a b = if f32IsZero b then f32NaN else f32Pack (f32Sign a != f32Sign b) 0x7F800000 := by
  obtain ⟨na, za, -⟩ := f32IsInf_cases ha
  obtain ⟨nb, -⟩ := f32_finite_cases hb
  simp [fmul, na, nb, ha, za]

theorem fmul_finite_inf :
    fmul b a = if f32IsZero b then f32NaN else f32Pack (f32Sign a != f32Sign b) 0x7F800000 := by
  obtain ⟨na, za, -⟩ := f32IsInf_cases ha
  obtain ⟨nb, -⟩ := f32_finite_cases hb
  simp [fmul, na, nb, ha, za, bne_comm (a := f32Sign b)]

theorem fdiv_inf_finite : fdiv a b = f32Pack (f32Sign a != f32Sign b) 0x7F800000 := by
  obtain ⟨na, -, -⟩ := f32IsInf_cases ha
  obtain ⟨nb, ib⟩ := f32_finite_cases hb
  simp [fdiv, na, nb, ha, ib]

theorem fdiv_finite_inf : fdiv b a = f32Pack (f32Sign a != f32Sign b) 0 := by
  obtain ⟨na, -, -⟩ := f32IsInf_cases ha
  obtain ⟨nb, ib⟩ := f32_finite_cases hb
  simp [fdiv, na, nb, ha, ib, bne_comm (a := f32Sign b)]

/-- An infinity compares with a finite value as its sign says. -/
theorem compare_inf_finite :
    flt a b = f32Sign a ∧ fle a b = f32Sign a ∧ flt b a = !f32Sign a ∧ fle b a = !f32Sign a := by
  obtain ⟨na, -, -⟩ := f32IsInf_cases ha
  obtain ⟨nb, -⟩ := f32_finite_cases hb
  obtain ⟨hlo, hhi⟩ := f32Key_finite hb
  have hkey := f32Key_inf ha
  simp only [flt, fle, na, nb, Bool.not_false, Bool.true_and]
  cases hs : f32Sign a <;> rw [hs] at hkey <;>
    simp only [Bool.false_eq_true, if_false, if_true] at hkey <;>
    simp only [decide_eq_true_eq, decide_eq_false_iff_not, Bool.not_true, Bool.not_false] <;> omega

end

/-! ## Two infinite operands -/

section
variable {a b : F32} (ha : f32IsInf a = true) (hb : f32IsInf b = true)
include ha hb

theorem fadd_inf_inf :
    fadd a b = if f32Sign a = f32Sign b then f32Pack (f32Sign a) 0x7F800000 else f32NaN := by
  obtain ⟨na, -, ea⟩ := f32IsInf_cases ha
  obtain ⟨nb, -, -⟩ := f32IsInf_cases hb
  rw [← ea]
  by_cases h : f32Sign a = f32Sign b <;> simp [fadd, na, nb, ha, hb, h]

theorem fsub_inf_inf :
    fsub a b = if f32Sign a = f32Sign b then f32NaN else f32Pack (f32Sign a) 0x7F800000 := by
  have h := fadd_inf_inf ha (b := f32Neg b) (by rwa [f32IsInf_neg])
  rw [f32Sign_neg] at h
  rw [fsub, h]
  cases f32Sign a <;> cases f32Sign b <;> rfl

theorem fmul_inf_inf : fmul a b = f32Pack (f32Sign a != f32Sign b) 0x7F800000 := by
  obtain ⟨na, za, -⟩ := f32IsInf_cases ha
  obtain ⟨nb, zb, -⟩ := f32IsInf_cases hb
  simp [fmul, na, nb, ha, za, zb]

theorem fdiv_inf_inf : fdiv a b = f32NaN := by
  obtain ⟨na, -, -⟩ := f32IsInf_cases ha
  obtain ⟨nb, -, -⟩ := f32IsInf_cases hb
  simp [fdiv, na, nb, ha, hb]

theorem compare_inf_inf :
    flt a b = (f32Sign a && !f32Sign b) ∧ fle a b = (f32Sign a || !f32Sign b) := by
  obtain ⟨na, -, -⟩ := f32IsInf_cases ha
  obtain ⟨nb, -, -⟩ := f32IsInf_cases hb
  simp only [flt, fle, na, nb, f32Key_inf ha, f32Key_inf hb]
  cases f32Sign a <;> cases f32Sign b <;> decide

end

/-- Settles O39: rounding on the grid of magnitudes, then each operation by the kinds of its operands. -/
theorem roundingIsNearestTiesToEven : Obligations.RoundingIsNearestTiesToEven := by
  refine ⟨roundHalfEven_spec, fun _ _ ha hden => roundMag_mul_f32Mag ha hden, ?ratio, ?finite, ?nan, ?inf,
    ?infs⟩
  case ratio => exact fun num den hden => ⟨roundMag_le num den, isRounding_pack false num hden⟩
  case finite =>
    refine fun a b ha hb => ⟨fadd_isRounding ha hb, fsub_isRounding ha hb, fmul_isRounding ha hb,
      fdiv_isRounding ha hb, fun hy hx => ?_, fun hy hx => ?_, flt_iff_rat ha hb, fle_iff_rat ha hb⟩
    · rw [fdiv_zero ha (f32Rat_eq_zero.mp hy), if_neg (mt f32Rat_eq_zero.mpr hx)]
    · rw [fdiv_zero ha (f32Rat_eq_zero.mp hy), if_pos (f32Rat_eq_zero.mp hx)]
      rfl
  case nan =>
    exact fun a b h => ⟨fadd_of_isNaN h, fsub_of_isNaN h, fmul_of_isNaN h, fdiv_of_isNaN h, flt_of_isNaN h,
      fle_of_isNaN h⟩
  case inf =>
    refine fun a b ha hb => ⟨fadd_inf_finite ha hb, fadd_finite_inf ha hb, fsub_inf_finite ha hb,
      fsub_finite_inf ha hb, fun hz => ?_, fun hz => ?_, fdiv_inf_finite ha hb, fdiv_finite_inf ha hb,
      compare_inf_finite ha hb⟩
    · rw [fmul_inf_finite ha hb, fmul_finite_inf ha hb, if_pos (f32Rat_eq_zero.mp hz)]
      exact ⟨rfl, rfl⟩
    · rw [fmul_inf_finite ha hb, fmul_finite_inf ha hb, if_neg (mt f32Rat_eq_zero.mpr hz)]
      exact ⟨rfl, rfl⟩
  case infs =>
    refine fun a b ha hb => ⟨fun h => ?_, fun h => ?_, fmul_inf_inf ha hb, fdiv_inf_inf ha hb,
      compare_inf_inf ha hb⟩
    · rw [fadd_inf_inf ha hb, fsub_inf_inf ha hb, if_pos h, if_pos h]
      exact ⟨rfl, rfl⟩
    · rw [fadd_inf_inf ha hb, fsub_inf_inf ha hb, if_neg h, if_neg h]
      exact ⟨rfl, rfl⟩

end Sys2Proof.Machine
end

section
/-!
PROOF. The identity section on finite samples (40_filter_chain R200).
-/

namespace Sys2Proof.Machine

/-- Multiplying a finite value by 1.0 gives its own pattern. -/
theorem fmul_one {x : F32} (hx : f32IsFinite x = true) : fmul f32One x = x := by
  have hmag : f32Mag f32One = 2 ^ 149 := by decide
  have hsign : f32Sign f32One = false := by decide
  rw [fmul_finite (by decide) hx, hmag, hsign, Nat.mul_comm, roundMag_mul_f32Mag hx (by positivity),
    Bool.false_bne, f32Pack_abs]

/-- Adding +0.0 to a finite value other than -0.0 gives its own pattern. -/
theorem fadd_zero {x : F32} (hx : f32IsFinite x = true) (hne : x ≠ 0x80000000#32) : fadd x f32Zero = x := by
  have hunits : f32Units f32Zero = 0 := by decide
  have hsign : f32Sign f32Zero = false := by decide
  have hround := roundMag_mul_f32Mag hx Nat.one_pos
  have hpack := f32Pack_abs x
  rw [Nat.mul_one] at hround
  rw [fadd_finite hx (by decide), hunits, hsign, Int.add_zero, Bool.and_false]
  split
  next hzero =>
    have : f32IsZero x = true := by
      rw [← f32Rat_eq_zero, f32Rat, hzero]
      simp
    exact ((f32IsZero_iff x).mp this).resolve_right hne |>.symm
  next hzero =>
    have hpos : 0 < f32Mag x := by
      refine Nat.pos_of_ne_zero fun h => hzero ?_
      simp [f32Units, h]
    have hnat : (f32Units x).natAbs = f32Mag x := by
      unfold f32Units
      split <;> omega
    have hneg : decide (f32Units x < 0) = f32Sign x := by
      unfold f32Units
      cases f32Sign x
      · simp
      · simpa using hpos
    rw [hnat, hneg, hround, hpack]

/-- Settles O37: the section multiplies by 1.0 and adds +0.0. -/
theorem identitySectionPassesFiniteSamples : Obligations.IdentitySectionPassesFiniteSamples := by
  refine ⟨fun x hx hne => ?_, by decide⟩
  calc (bq Taps.identity Delay.zero x).1 = fadd (fmul f32One x) f32Zero := rfl
    _ = x := by rw [fmul_one hx, fadd_zero hx hne]

end Sys2Proof.Machine
end

section
/-!
PROOF. DB20 and DB_TOL (43_spectrum R343): what the integer test `dbWithin` says of real logarithms, that some
binary32 value fits every argument at the tolerance 0.01, and so what `db20` is.
-/

namespace Sys2Proof.Machine

open Sys2Proof.Safety

/-! ## The tolerance test as a statement about logarithms -/

/-- The two sides of an inequality of `dbWithin` differ, on the logarithmic scale, by `z - b * log10 (u / c)`. -/
theorem logb_sides (z : Int) (b : Nat) {u c : ℝ} (hu : 0 < u) (hc : 0 < c) :
    Real.logb 10 (10 ^ z.toNat * c ^ b) - Real.logb 10 (u ^ b * 10 ^ (-z).toNat) =
      z - b * Real.logb 10 (u / c) := by
  have hz : (z.toNat : ℝ) - ((-z).toNat : ℝ) = z := by exact_mod_cast Int.toNat_sub_toNat_neg z
  have h10 : Real.logb 10 10 = 1 := Real.logb_self_eq_one (by norm_num)
  rw [Real.logb_mul (by positivity) (by positivity), Real.logb_mul (by positivity) (by positivity),
    Real.logb_pow, Real.logb_pow, Real.logb_pow, Real.logb_pow, h10, Real.logb_div hu.ne' hc.ne']
  linarith

theorem pow_sides_le_iff (z : Int) (b : Nat) {u : Nat} (hu : 0 < u) :
    (10 ^ z.toNat * 2 ^ (149 * b) ≤ u ^ b * 10 ^ (-z).toNat ↔
      (z : ℝ) ≤ b * Real.logb 10 ((u : ℝ) / 2 ^ 149)) ∧
    (u ^ b * 10 ^ (-z).toNat ≤ 10 ^ z.toNat * 2 ^ (149 * b) ↔
      b * Real.logb 10 ((u : ℝ) / 2 ^ 149) ≤ z) := by
  have hur : (0 : ℝ) < u := by exact_mod_cast hu
  have hsides := logb_sides z b hur (c := 2 ^ 149) (by positivity)
  have hl : (0 : ℝ) < 10 ^ z.toNat * (2 ^ 149) ^ b := by positivity
  have hr : (0 : ℝ) < (u : ℝ) ^ b * 10 ^ (-z).toNat := by positivity
  rw [pow_mul, ← Nat.cast_le (α := ℝ), ← Nat.cast_le (α := ℝ)]
  simp only [Nat.cast_mul, Nat.cast_pow, Nat.cast_ofNat]
  rw [← Real.logb_le_logb (b := 10) (by norm_num) hl hr, ← Real.logb_le_logb (b := 10) (by norm_num) hr hl]
  constructor
  · rw [← sub_nonpos, hsides, sub_nonpos]
  · rw [← sub_nonneg, hsides, sub_nonneg]

theorem dbWithin_iff (tol : ℚ) {u : Nat} (hu : 0 < u) (x : Int) :
    dbWithin tol u x = true ↔
      |(x : ℝ) / 2 ^ 149 - 20 * Real.logb 10 ((u : ℝ) / 2 ^ 149)| ≤ (tol : ℝ) := by
  have hden : (0 : ℝ) < tol.den := by exact_mod_cast tol.den_pos
  have hscale : (0 : ℝ) < tol.den * 2 ^ 149 := by positivity
  have hbound (s : ℤ) : ((tol.den * x + s * 2 ^ 149 : ℤ) : ℝ) =
      tol.den * 2 ^ 149 * ((x : ℝ) / 2 ^ 149 + s / tol.den) := by
    rw [Int.cast_add, Int.cast_mul, Int.cast_mul, Int.cast_natCast, Int.cast_pow, Int.cast_ofNat]
    field_simp
  have hlog : ((20 * tol.den * 2 ^ 149 : ℕ) : ℝ) * Real.logb 10 ((u : ℝ) / 2 ^ 149) =
      tol.den * 2 ^ 149 * (20 * Real.logb 10 ((u : ℝ) / 2 ^ 149)) := by
    rw [Nat.cast_mul, Nat.cast_mul, Nat.cast_pow, Nat.cast_ofNat, Nat.cast_ofNat]
    ring
  have hlo := hbound (-tol.num)
  rw [neg_mul, ← sub_eq_add_neg] at hlo
  simp only [dbWithin, Bool.and_eq_true, decide_eq_true_eq, (pow_sides_le_iff _ _ hu).1,
    (pow_sides_le_iff _ _ hu).2, hlog, hlo, hbound tol.num, mul_le_mul_iff_right₀ hscale, abs_le]
  rw [Int.cast_neg, neg_div, ← Rat.cast_def]
  constructor <;> rintro ⟨h1, h2⟩ <;> constructor <;> linarith

/-! ## What fits an argument -/

/-- Twenty times the decimal logarithm of a pattern's value. -/
noncomputable def dbLog (m : F32) : ℝ := 20 * Real.logb 10 ((f32Rat m : ℚ) : ℝ)

/-- The finite positive patterns are those from 1 up to the one below +infinity. -/
theorem f32Pos_iff (m : F32) : f32Pos m = true ↔ 0 < m.toNat ∧ m.toNat < 0x7F800000 := by
  have htoNat := f32Pack_toNat (f32Sign m) (g := (f32Abs m).toNat) (by rw [f32Abs_toNat]; omega)
  rw [f32Pack_abs] at htoNat
  have hz := f32IsZero_iff_abs m
  rw [f32Pos, Bool.and_eq_true, Bool.and_eq_true, f32IsFinite_iff, Bool.not_eq_true', Bool.not_eq_true',
    ← Bool.not_eq_true (f32IsZero m), hz]
  cases hs : f32Sign m <;> rw [hs] at htoNat <;> simp at htoNat ⊢ <;> omega

theorem f32Pos_ofNat {n : Nat} (h : n + 1 < 0x7F800000) : f32Pos (BitVec.ofNat 32 (n + 1)) = true := by
  rw [f32Pos_iff, BitVec.toNat_ofNat, Nat.mod_eq_of_lt (by omega)]
  omega

theorem f32Rat_one : f32Rat f32One = 1 := by
  have h : f32Units f32One = 2 ^ 149 := by decide
  rw [f32Rat, h]
  norm_num

theorem f32Rat_zero : f32Rat f32Zero = 0 := by
  rw [f32Rat_eq_zero]
  decide

section
variable {m : F32} (hm : f32Pos m = true)
include hm

theorem f32Pos_finite : f32IsFinite m = true := by
  simp only [f32Pos, Bool.and_eq_true] at hm
  exact hm.1.1

theorem f32Rat_of_pos : f32Rat m = (f32Mag m : ℚ) / 2 ^ 149 := by
  simp only [f32Pos, Bool.and_eq_true, Bool.not_eq_true'] at hm
  rw [f32Rat_eq_signed, hm.1.2, signed_false]

theorem f32Mag_of_pos : f32Mag m = unitsOfBits m.toNat := by
  have h := (f32Pos_iff m).mp hm
  rw [f32Mag_eq, f32Abs_toNat, Nat.mod_eq_of_lt (by omega)]

theorem f32Mag_pos : 0 < f32Mag m := by
  rw [f32Mag_of_pos hm, Nat.pos_iff_ne_zero, Ne, unitsOfBits_eq_zero]
  exact ((f32Pos_iff m).mp hm).1.ne'

theorem f32Rat_pos : 0 < f32Rat m := by
  have := f32Mag_pos hm
  rw [f32Rat_of_pos hm]
  positivity

/-- Positive patterns are ordered as their bits. -/
theorem f32Rat_le_iff_of_pos {m' : F32} (hm' : f32Pos m' = true) :
    f32Rat m' ≤ f32Rat m ↔ m'.toNat ≤ m.toNat := by
  rw [f32Rat_of_pos hm, f32Rat_of_pos hm', div_le_div_iff_of_pos_right (by positivity), f32Mag_of_pos hm,
    f32Mag_of_pos hm', Nat.cast_le, unitsOfBits_strictMono.le_iff_le]

/-- What it is to fit a finite positive argument, in values. -/
theorem dbFits_iff (tol : ℚ) (v : F32) :
    dbFits tol m v = true ↔ f32IsFinite v = true ∧ |((f32Rat v : ℚ) : ℝ) - dbLog m| ≤ (tol : ℝ) ∧
      (f32Rat m ≤ 1 → f32Rat v ≤ 0) ∧ (1 ≤ f32Rat m → 0 ≤ f32Rat v) := by
  have hmf := f32Pos_finite hm
  have hone : f32IsFinite f32One = true := by decide
  have hzero : f32IsFinite f32Zero = true := by decide
  have hwithin := dbWithin_iff tol (f32Mag_pos hm) (f32Units v)
  have hlog : 20 * Real.logb 10 ((f32Mag m : ℝ) / 2 ^ 149) = dbLog m := by
    rw [dbLog, f32Rat_of_pos hm]
    norm_num
  have hval : (f32Units v : ℝ) / 2 ^ 149 = ((f32Rat v : ℚ) : ℝ) := by
    rw [f32Rat]
    norm_num
  rw [hlog, hval] at hwithin
  simp only [dbFits, Bool.and_eq_true, Bool.or_eq_true, Bool.not_eq_true', ← Bool.not_eq_true, hwithin,
    ← imp_iff_not_or, and_assoc]
  refine and_congr_right fun hv => and_congr_right fun _ => ?_
  rw [fle_iff_rat hmf hone, fle_iff_rat hv hzero, fle_iff_rat hone hmf, fle_iff_rat hzero hv, f32Rat_one,
    f32Rat_zero]

end

theorem dbLog_mono {m m' : F32} (hm' : f32Pos m' = true)
    (h : f32Rat m' ≤ f32Rat m) : dbLog m' ≤ dbLog m := by
  have hlog := Real.logb_le_logb_of_le (b := 10) (by norm_num)
    (by exact_mod_cast f32Rat_pos hm') (by exact_mod_cast h : ((f32Rat m' : ℚ) : ℝ) ≤ (f32Rat m : ℚ))
  unfold dbLog
  linarith

end Sys2Proof.Machine
end

section
/-!
PROOF. DB20 is accurate and rises, and the parameters have the properties the spec requires of them
(43_spectrum R341 to R343).
-/

namespace Sys2Proof.Machine

open Sys2Proof.Safety

/-! ## Some value fits at the tolerance 0.01 -/

/-- A magnitude of at most 24 significant bits is held exactly. -/
theorem exists_unitsOfBits {j : Nat} (hj : j < 2 ^ 24) (e : Nat) : ∃ n, unitsOfBits n = j * 2 ^ e := by
  induction e generalizing j with
  | zero => exact ⟨0 * 2 ^ 23 + j, unitsOfBits_grid hj.le (.inl rfl)⟩
  | succ e ih =>
    rcases Nat.lt_or_ge j (2 ^ 23) with hlt | hge
    · obtain ⟨n, hn⟩ := ih (j := 2 * j) (by omega)
      exact ⟨n, by rw [hn, pow_succ]; ring⟩
    · exact ⟨_, unitsOfBits_grid hj.le (.inr hge)⟩

/-- The bits of infinity, read as a magnitude, are 2^277 units: 2^128. -/
theorem unitsOfBits_inf : unitsOfBits 0x7F800000 = 2 ^ 23 * 2 ^ 254 :=
  unitsOfBits_grid (e := 254) (by norm_num) (.inr le_rfl)

/-- A pattern for every multiple of 1/128 of magnitude below 2^17. -/
theorem exists_f32Rat_eq_div {k : Int} (hk : |k| < 2 ^ 24) :
    ∃ v : F32, f32IsFinite v = true ∧ f32Rat v = k / 128 := by
  have hj : k.natAbs < 2 ^ 24 := by
    rw [Int.abs_eq_natAbs] at hk
    exact_mod_cast hk
  obtain ⟨n, hn⟩ := exists_unitsOfBits hj 142
  have hlt : n < 0x7F800000 := by
    rw [← unitsOfBits_strictMono.lt_iff_lt, unitsOfBits_inf, hn]
    calc k.natAbs * 2 ^ 142 < 2 ^ 24 * 2 ^ 142 := Nat.mul_lt_mul_of_pos_right hj (by positivity)
      _ ≤ 2 ^ 23 * 2 ^ 254 := by norm_num
  have hvalue : ((k.natAbs * 2 ^ 142 : Nat) : ℚ) / 2 ^ 149 = |(k : ℚ)| / 128 := by
    rw [Nat.cast_mul, Nat.cast_natAbs, Int.cast_abs, Nat.cast_pow, Nat.cast_ofNat]
    ring
  have hsigned (neg : Bool) : signed neg (|(k : ℚ)| / 128) = signed neg |(k : ℚ)| / 128 := by
    cases neg <;> simp [neg_div]
  refine ⟨f32Pack (decide ((k : ℚ) < 0)) n, ?_, ?_⟩
  · rw [f32IsFinite_iff, f32Abs_pack _ (by omega)]
    exact hlt
  · rw [f32Rat_eq_signed, f32Sign_pack _ (by omega), f32Mag_pack _ (by omega), hn, hvalue, hsigned,
      signed_lt_zero]

theorem logb_ten_two : 0 ≤ Real.logb 10 2 ∧ Real.logb 10 2 ≤ 1 / 3 := by
  refine ⟨Real.logb_nonneg (by norm_num) (by norm_num), ?_⟩
  have h : Real.logb 10 (2 ^ 3) ≤ Real.logb 10 10 :=
    Real.logb_le_logb_of_le (by norm_num) (by norm_num) (by norm_num)
  rw [Real.logb_pow, Real.logb_self_eq_one (by norm_num)] at h
  push_cast at h
  linarith

/-- The decibels of a binary32 value lie between -1000 and 1000. -/
theorem abs_dbLog_le {m : F32} (hm : f32Pos m = true) : |dbLog m| ≤ 1000 := by
  obtain ⟨hl0, hl1⟩ := logb_ten_two
  have hr0 : (0 : ℝ) < ((f32Rat m : ℚ) : ℝ) := by exact_mod_cast f32Rat_pos hm
  have hlo : (1 : ℝ) / 2 ^ 149 ≤ ((f32Rat m : ℚ) : ℝ) := by
    have h : (1 : ℚ) / 2 ^ 149 ≤ f32Rat m := by
      rw [f32Rat_of_pos hm]
      gcongr
      exact_mod_cast f32Mag_pos hm
    have hcast : (((1 / 2 ^ 149 : ℚ)) : ℝ) ≤ ((f32Rat m : ℚ) : ℝ) := Rat.cast_le.mpr h
    rwa [Rat.cast_div, Rat.cast_one, Rat.cast_pow, Rat.cast_ofNat] at hcast
  have hhi : ((f32Rat m : ℚ) : ℝ) ≤ 2 ^ 149 := by
    have hmag : f32Mag m ≤ 2 ^ 23 * 2 ^ 254 := by
      rw [← unitsOfBits_inf, f32Mag_of_pos hm]
      exact unitsOfBits_strictMono.monotone ((f32Pos_iff m).mp hm).2.le
    have h : f32Rat m ≤ 2 ^ 149 := by
      rw [f32Rat_of_pos hm, div_le_iff₀ (by positivity)]
      calc (f32Mag m : ℚ) ≤ 2 ^ 23 * 2 ^ 254 := by exact_mod_cast hmag
        _ ≤ 2 ^ 149 * 2 ^ 149 := by norm_num
    exact_mod_cast h
  have hlogLo := Real.logb_le_logb_of_le (b := 10) (by norm_num) (by positivity) hlo
  have hlogHi := Real.logb_le_logb_of_le (b := 10) (by norm_num) hr0 hhi
  rw [one_div, Real.logb_inv, Real.logb_pow] at hlogLo
  rw [Real.logb_pow] at hlogHi
  push_cast at hlogLo hlogHi
  rw [dbLog, abs_le]
  constructor <;> linarith

theorem dbLog_one : dbLog f32One = 0 := by
  rw [dbLog, f32Rat_one]
  simp

/-- The multiple of 1/128 next below the exact decibels fits: it is within 1/128, and on the right side of zero. -/
theorem exists_dbFits {m : F32} (hm : f32Pos m = true) : ∃ v, dbFits (1 / 100) m v = true := by
  have hone : f32Pos f32One = true := by decide
  have hbound := abs_le.mp (abs_dbLog_le hm)
  have hfloor := Int.floor_le (dbLog m * 128)
  have hceil := Int.lt_floor_add_one (dbLog m * 128)
  have hk : |⌊dbLog m * 128⌋| < 2 ^ 24 := by
    have h : |(⌊dbLog m * 128⌋ : ℝ)| < 2 ^ 24 := by
      rw [abs_lt]
      constructor <;> linarith
    exact_mod_cast h
  obtain ⟨v, hv, hrat⟩ := exists_f32Rat_eq_div hk
  have hreal : ((f32Rat v : ℚ) : ℝ) = ⌊dbLog m * 128⌋ / 128 := by
    rw [hrat]
    push_cast
    rfl
  refine ⟨v, (dbFits_iff hm _ v).mpr ⟨hv, ?_, fun hle => ?_, fun hge => ?_⟩⟩
  · rw [hreal, abs_le]
    push_cast
    constructor <;> linarith
  · have hlog := dbLog_mono (m := f32One) hm (by rwa [f32Rat_one])
    rw [dbLog_one] at hlog
    have h : ((f32Rat v : ℚ) : ℝ) ≤ 0 := by rw [hreal]; linarith
    exact_mod_cast h
  · have hlog := dbLog_mono (m := m) hone (by rwa [f32Rat_one])
    rw [dbLog_one] at hlog
    have hnonneg : (0 : ℝ) ≤ ⌊dbLog m * 128⌋ := by
      exact_mod_cast Int.floor_nonneg.mpr (by linarith)
    have h : (0 : ℝ) ≤ ((f32Rat v : ℚ) : ℝ) := by rw [hreal]; positivity
    exact_mod_cast h

/-! ## DB_TOL and the candidates -/

theorem dbFirst_isSome_of_allowed {tol : ℚ} (h : dbTolAllowed tol = true) {m : F32} (hm : f32Pos m = true) :
    (dbFirst tol m).isSome = true := by
  simp only [dbTolAllowed, Bool.and_eq_true, List.all_eq_true, List.mem_range] at h
  obtain ⟨hpos, hlt⟩ := (f32Pos_iff m).mp hm
  have hfirst := h.2 (m.toNat - 1) (by omega)
  rwa [Nat.sub_add_cancel hpos, BitVec.ofNat_toNat, BitVec.setWidth_eq] at hfirst

theorem dbTol_le : dbTol ≤ 1 / 100 := by
  rcases dbTol_cases with ⟨hallowed, e⟩ | ⟨-, e⟩
  · simp only [dbTolAllowed, Bool.and_eq_true, decide_eq_true_eq] at hallowed
    rw [e]
    exact hallowed.1
  · rw [e]

/-- Something fits every finite positive argument at DB_TOL. -/
theorem dbFirst_dbTol_isSome {m : F32} (hm : f32Pos m = true) : (dbFirst dbTol m).isSome = true := by
  rcases dbTol_cases with ⟨hallowed, e⟩ | ⟨-, e⟩
  · rw [e]
    exact dbFirst_isSome_of_allowed hallowed hm
  · rw [e]
    obtain ⟨v, hv⟩ := exists_dbFits hm
    exact dbFirst_isSome hv

theorem dbCandidate_fits {m : F32} (hm : f32Pos m = true) : dbFits dbTol m (dbCandidate m) = true := by
  rcases dbCandidate_cases m with ⟨hfits, e⟩ | ⟨-, e⟩
  · rw [e]
    exact hfits
  · obtain ⟨v, hv⟩ := Option.isSome_iff_exists.mp (dbFirst_dbTol_isSome hm)
    rw [e, hv]
    exact dbFirst_fits hv

theorem dbTol_nonneg : (0 : ℝ) ≤ (dbTol : ℚ) := by
  have hone : f32Pos f32One = true := by decide
  obtain ⟨-, hnear, -⟩ := (dbFits_iff hone _ _).mp (dbCandidate_fits hone)
  exact (abs_nonneg _).trans hnear

/-! ## DB20 -/

/-- `dbMax n` is the largest of the candidates of the patterns 1 to `n + 1`. -/
theorem dbMax_spec (n : Nat) (hn : n + 1 < 0x7F800000) :
    (∃ j ≤ n, dbMax n = dbCandidate (BitVec.ofNat 32 (j + 1))) ∧
    ∀ i ≤ n, f32Rat (dbCandidate (BitVec.ofNat 32 (i + 1))) ≤ f32Rat (dbMax n) := by
  have hfinite (i : Nat) (hi : i + 1 < 0x7F800000) :
      f32IsFinite (dbCandidate (BitVec.ofNat 32 (i + 1))) = true :=
    ((dbFits_iff (f32Pos_ofNat hi) _ _).mp (dbCandidate_fits (f32Pos_ofNat hi))).1
  induction n with
  | zero =>
    refine ⟨⟨0, le_rfl, rfl⟩, fun i hi => ?_⟩
    rw [Nat.le_zero.mp hi]
    exact le_rfl
  | succ n ih =>
    obtain ⟨⟨j, hj, hmax⟩, hall⟩ := ih (by omega)
    have hlt := flt_iff_rat (hfinite (n + 1) hn) (b := dbMax n) (by rw [hmax]; exact hfinite j (by omega))
    simp only [dbMax]
    split
    next h =>
      refine ⟨⟨j, by omega, hmax⟩, fun i hi => ?_⟩
      rcases Nat.le_succ_iff.mp hi with hi | rfl
      · exact hall i hi
      · exact (hlt.mp h).le
    next h =>
      have hge := not_lt.mp (mt hlt.mpr h)
      refine ⟨⟨n + 1, le_rfl, rfl⟩, fun i hi => ?_⟩
      rcases Nat.le_succ_iff.mp hi with hi | rfl
      · exact (hall i hi).trans hge
      · exact le_rfl

/-- Away from 1.0, DB20 is the candidate of a smaller or equal argument and at least the candidate of each
(DB-P2 by construction). -/
theorem db20_of_pos {m : F32} (hm : f32Pos m = true) (hne : m ≠ f32One) :
    (∃ m', f32Pos m' = true ∧ f32Rat m' ≤ f32Rat m ∧ db20 m = dbCandidate m') ∧
    ∀ m', f32Pos m' = true → f32Rat m' ≤ f32Rat m → f32Rat (dbCandidate m') ≤ f32Rat (db20 m) := by
  obtain ⟨hpos, hlt⟩ := (f32Pos_iff m).mp hm
  have hinf : m ≠ f32Inf := by
    rintro rfl
    exact absurd hm (by decide)
  have hdb : db20 m = dbMax (m.toNat - 1) := by
    rw [db20, if_neg hne, if_neg hinf]
    exact if_pos hm
  obtain ⟨⟨j, hj, hmax⟩, hall⟩ := dbMax_spec (m.toNat - 1) (by omega)
  have hjPos : f32Pos (BitVec.ofNat 32 (j + 1)) = true := f32Pos_ofNat (by omega)
  rw [hdb]
  refine ⟨⟨_, hjPos, ?_, hmax⟩, fun m' hm' hle => ?_⟩
  · rw [f32Rat_le_iff_of_pos hm hjPos, BitVec.toNat_ofNat, Nat.mod_eq_of_lt (by omega)]
    omega
  · have hle' := (f32Rat_le_iff_of_pos hm hm').mp hle
    have hpos' := ((f32Pos_iff m').mp hm').1
    have h := hall (m'.toNat - 1) (by omega)
    rwa [Nat.sub_add_cancel hpos', BitVec.ofNat_toNat, BitVec.setWidth_eq] at h

theorem db20_one : db20 f32One = f32Zero := by
  rw [db20, if_pos rfl]

theorem db20_inf : db20 f32Inf = f32Inf := by
  rw [db20, if_neg (by decide), if_pos rfl]

theorem db20_finite {m : F32} (hm : f32Pos m = true) : f32IsFinite (db20 m) = true := by
  rcases eq_or_ne m f32One with rfl | hne
  · rw [db20_one]
    decide
  · obtain ⟨⟨m', hm', -, e⟩, -⟩ := db20_of_pos hm hne
    rw [e]
    exact ((dbFits_iff hm' _ _).mp (dbCandidate_fits hm')).1

/-- The largest candidate up to `m` is within the tolerance above because the candidate it comes from is, and
below because the candidate of `m` is. -/
theorem db20_accurate {m : F32} (hm : f32Pos m = true) :
    |((f32Rat (db20 m) : ℚ) : ℝ) - dbLog m| ≤ (dbTol : ℝ) := by
  rcases eq_or_ne m f32One with rfl | hne
  · rw [db20_one, f32Rat_zero, dbLog_one]
    simpa using dbTol_nonneg
  · obtain ⟨⟨m', hm', hle, e⟩, hall⟩ := db20_of_pos hm hne
    obtain ⟨-, hnear', -⟩ := (dbFits_iff hm' _ _).mp (dbCandidate_fits hm')
    obtain ⟨-, hnear, -⟩ := (dbFits_iff hm _ _).mp (dbCandidate_fits hm)
    have hlog := dbLog_mono hm' hle
    have hbelow : ((f32Rat (dbCandidate m) : ℚ) : ℝ) ≤ ((f32Rat (db20 m) : ℚ) : ℝ) := by
      exact_mod_cast hall m hm le_rfl
    rw [← e] at hnear'
    rw [abs_le] at hnear hnear' ⊢
    constructor <;> linarith

/-- DB-P2, through the value at 1.0, which no candidate crosses. -/
theorem db20_mono {m n : F32} (hm : f32Pos m = true) (hn : f32Pos n = true) (hle : f32Rat m ≤ f32Rat n) :
    f32Rat (db20 m) ≤ f32Rat (db20 n) := by
  rcases eq_or_ne n f32One with rfl | hn1
  · rcases eq_or_ne m f32One with rfl | hm1
    · exact le_rfl
    · obtain ⟨⟨m', hm', hle', e⟩, -⟩ := db20_of_pos hm hm1
      obtain ⟨-, -, hneg, -⟩ := (dbFits_iff hm' _ _).mp (dbCandidate_fits hm')
      rw [e, db20_one, f32Rat_zero]
      exact hneg (by rw [← f32Rat_one]; exact hle'.trans hle)
  · obtain ⟨-, hall⟩ := db20_of_pos hn hn1
    rcases eq_or_ne m f32One with rfl | hm1
    · obtain ⟨-, -, -, hpos⟩ := (dbFits_iff hn _ _).mp (dbCandidate_fits hn)
      rw [db20_one, f32Rat_zero]
      exact (hpos (by rwa [← f32Rat_one])).trans (hall n hn le_rfl)
    · obtain ⟨⟨m', hm', hle', e⟩, -⟩ := db20_of_pos hm hm1
      rw [e]
      exact hall m' hm' (hle'.trans hle)

/-- Settles O51: each value is the largest candidate up to its argument, and every candidate is accurate. -/
theorem decibelsAreWithinTolerance : Obligations.DecibelsAreWithinTolerance :=
  ⟨fun _ hm => ⟨db20_finite hm, db20_accurate hm⟩, dbTol_le⟩

/-! ## The window and the transform -/

theorem win_finite (size i : Nat) : f32IsFinite (win size i) = true := by
  unfold win
  split
  · assumption
  · decide

/-- Settles O50: the transform carries its four properties, the window and DB20 are made to have theirs. -/
theorem parametersHaveRequiredProperties : Obligations.ParametersHaveRequiredProperties := by
  refine ⟨win_finite, fun size hs w hw k hk => ⟨fun hz => ?_, ?_, fun hf => ?_⟩, transform.accurate, db20_one,
    fun m1 m2 h1 h2 hle => ?_, db20_inf⟩
  · exact transform.zero size hs w hw hz k hk
  · exact transform.sign size hs w hw k hk
  · exact transform.noNaN size hs w hw hf k hk
  · rw [fle_iff_rat (f32Pos_finite h1) (f32Pos_finite h2)] at hle
    rw [fle_iff_rat (db20_finite h1) (db20_finite h2)]
    exact db20_mono h1 h2 hle

end Sys2Proof.Machine
end

section
/-!
PROOF. Invariants of a step, and the canonical form of the word memories (10_state R61, R65, 20_memory R109).
-/

namespace Sys2Proof.Machine

open Sys2Proof.Safety

/-- What an operation leads to from the states of `P`, and the reset event from any, every step leads to from
the states of `P`; `P` is blind to the schedule. -/
theorem step_establishes {P Q : State → Prop} (hq : ∀ s s', SameBlock s s' → P s → P s')
    (hpq : ∀ s, P s → Q s) (hr : ∀ s, Q (resetBlock s))
    (hx : ∀ i s t, P s → exec i s = .next t → Q t) {s t : State} (h : P s) (hs : step s = .next t) : Q t := by
  obtain ⟨s', hb, ⟨i, hi⟩ | rfl | rfl⟩ := step_cases hs
  · exact hx i s' t (hq s s' hb h) hi
  · exact hr s'
  · exact hpq t (hq s t hb h)

/-- A property of a channel that the reset channel has and every effect keeps, every step keeps. -/
theorem step_preserves_chan {P : Chan → Prop} (hr : P Chan.reset)
    (hx : ∀ s k k', ChanEffect s k k' → P k → P k') {s t : State} (h : ∀ c, P (getCh s c))
    (hs : step s = .next t) (c : Ch) : P (getCh t c) := by
  refine step_preserves (P := fun s => ∀ c, P (getCh s c)) ?_ ?_ ?_ h hs c
  · intro s s' hb h c
    rw [SameBlock_getCh hb]
    exact h c
  · intro s c
    rw [getCh_resetBlock]
    exact hr
  · exact fun i s t h hi c => hx s _ _ (exec_chan hi c) (h c)

/-- A channel's two word memories have the canonical form. -/
def ChanCanonical (k : Chan) : Prop := memWf k.acc = true ∧ memWf k.ob.data = true

theorem memoriesCanonical_iff (s : State) : MemoriesCanonical s ↔ ∀ c, ChanCanonical (getCh s c) := Iff.rfl

/-- INGEST writes one accumulator word and a pull stores one sequence into OUTBUF; nothing else writes a word
memory. -/
theorem chanEffect_canonical {s : State} {k k' : Chan} (h : ChanEffect s k k') (hk : ChanCanonical k) :
    ChanCanonical k' := by
  obtain ⟨hacc, hdata⟩ := hk
  cases h with
  | nothing | prepare | clear | order | syncW2R | syncR2W => exact ⟨hacc, hdata⟩
  | pull n v fb => exact ⟨hacc, memStoreSeq_wf hdata _⟩
  | ingest v st =>
    rw [ChanCanonical, ingestChan_acc, ingestChan_ob]
    exact ⟨memWrite_wf hacc _ v, hdata⟩
  | fft =>
    rw [ChanCanonical, fftChan_acc, fftChan_ob]
    exact ⟨hacc, hdata⟩

/-- Settles O52: every effect on a channel keeps both of its memories canonical. -/
theorem memoriesStayCanonical : Obligations.MemoriesStayCanonical := by
  intro s t h hs
  rw [memoriesCanonical_iff] at h ⊢
  exact step_preserves_chan ⟨rfl, rfl⟩ (fun _ _ _ => chanEffect_canonical) h hs

end Sys2Proof.Machine
end

section
/-!
PROOF. The registers, counts and histories stay legal (10_state R42 to R45, R59, R61, R64).
-/

namespace Sys2Proof.Machine

open Sys2Proof.Safety

/-! ## Legal operands -/

theorem orderLegal_iff (o : BitVec 4) : orderLegal o = true ↔ o = 11#4 ∨ o = 12#4 ∨ o = 13#4 := by
  revert o; decide

/-- F is 2048, 4096 or 8192 (43_spectrum R340). -/
theorem fftSize_of_legal {o : BitVec 4} (h : orderLegal o = true) :
    fftSize o = 2048 ∨ fftSize o = 4096 ∨ fftSize o = 8192 := by
  rcases (orderLegal_iff o).mp h with rfl | rfl | rfl <;> decide

theorem accLen_of_legal {v : Word} (h : accLenLegal v = true) :
    1 ≤ (v.extractLsb' 0 14).toNat ∧ (v.extractLsb' 0 14).toNat ≤ Config.maxLen := by
  simp only [accLenLegal, Bool.and_eq_true, bne_iff_ne, ne_eq, decide_eq_true_eq] at h
  obtain ⟨⟨-, hne⟩, hle⟩ := h
  exact ⟨Nat.one_le_iff_ne_zero.mpr hne, hle⟩

/-! ## PREPARE and FRAME on the registers -/

theorem prepareState_eq (s : State) :
    prepareState s = mapCh (prepareChan (fftSize s.fftOrder))
      { s with lv := if s.pendA then s.sh else s.lv, pendA := false, pendC := false, llive := s.accLen,
               atb := true } := by
  unfold prepareState install
  cases s.pendA <;> rfl

theorem prepareState_llive (s : State) : (prepareState s).llive = s.accLen := by
  rw [prepareState_eq]; rfl

theorem prepareState_fftOrder (s : State) : (prepareState s).fftOrder = s.fftOrder := by
  rw [prepareState_eq]; rfl

/-- A commit that lands with a frame is the only change a frame makes to the handshake and the configuration
values. -/
theorem acceptFrame_config (last : Bool) (d1 d0 : F32) (s : State) :
    ((acceptFrame last d1 d0 s).pendA = true → s.pendA = true) ∧
    (acceptFrame last d1 d0 s).pendC = s.pendC ∧ (acceptFrame last d1 d0 s).fftOrder = s.fftOrder ∧
    (acceptFrame last d1 d0 s).accLen = s.accLen ∧ (acceptFrame last d1 d0 s).llive = s.llive ∧
    (acceptFrame last d1 d0 s).floor = s.floor := by
  simp only [acceptFrame]
  rcases applyStep_cases s with ⟨-, -, e⟩ | ⟨-, e⟩ <;> simp [e]

/-- LLIVE changes with PREPARE alone (10_state R44). -/
theorem effect_llive {s u : State} (h : Effect s u) : u.llive = s.llive ∨ u = prepareState s := by
  cases h with
  | prepare => exact .inr rfl
  | frame last d1 d0 =>
    obtain ⟨-, -, -, -, hlen, -⟩ := acceptFrame_config last d1 d0 s
    exact .inl hlen
  | _ => exact .inl rfl

/-! ## The four parts of the invariant -/

/-- Only COMMIT raises PEND_A, and it raises PEND_C with it; only PREPARE and SYNC_ACK clear PEND_C, with PEND_A
clear (10_state R59). -/
theorem effect_handshake {s u : State} (h : Effect s u) (hs : HandshakeOk s) : HandshakeOk u := by
  cases h with
  | commit => exact fun _ => rfl
  | prepare =>
    rw [prepareState_eq]
    exact nofun
  | frame last d1 d0 =>
    obtain ⟨hA, hC, -⟩ := acceptFrame_config last d1 d0 s
    exact fun hp => hC.trans (hs (hA hp))
  | apply => exact nofun
  | ack _ hA => exact fun hp => absurd hp (by simp [hA])
  | _ => exact hs

/-- What stores a configuration value checks it first, and LLIVE takes the legal ACC_LEN. -/
theorem effect_config {s u : State} (h : Effect s u) (hs : ConfigOk s) : ConfigOk u := by
  obtain ⟨hord, hacc, hacc', hlen, hlen', hfloor⟩ := hs
  cases h with
  | prepare =>
    rw [prepareState_eq]
    exact ⟨hord, hacc, hacc', hacc, hacc', hfloor⟩
  | order ord h => exact ⟨h, hacc, hacc', hlen, hlen', hfloor⟩
  | setLen v h =>
    obtain ⟨hpos, hle⟩ := accLen_of_legal h
    exact ⟨hord, hpos, hle, hlen, hlen', hfloor⟩
  | setFloor v h => exact ⟨hord, hacc, hacc', hlen, hlen', h⟩
  | frame last d1 d0 =>
    obtain ⟨-, -, eord, eacc, elen, efloor⟩ := acceptFrame_config last d1 d0 s
    rw [ConfigOk, eord, eacc, elen, efloor]
    exact ⟨hord, hacc, hacc', hlen, hlen', hfloor⟩
  | _ => exact ⟨hord, hacc, hacc', hlen, hlen', hfloor⟩

/-- INGEST counts a sample only below the target length, and starts again at it (42_collector R321). -/
theorem ingestChan_acnt_lt {len : Nat} {k : Chan} (h : k.acnt < len) (v : F32) :
    (ingestChan len v k).acnt < len := by
  rcases ingestChan_cases len v k with ⟨hne, e⟩ | ⟨-, e⟩ <;> rw [e]
  · exact Nat.lt_of_le_of_ne h hne
  · exact Nat.zero_lt_of_lt h

theorem chanEffect_acnt_lt {s : State} {k k' : Chan} (h : ChanEffect s k k') (hk : k.acnt < s.llive.toNat) :
    k'.acnt < s.llive.toNat := by
  cases h with
  | prepare => exact Nat.zero_lt_of_lt hk
  | ingest v st => exact ingestChan_acnt_lt (k := { k with st := st }) hk v
  | fft =>
    rw [fftChan_acnt]
    exact hk
  | _ => exact hk

theorem effect_collectors {s u : State} (h : Effect s u) (hc : ConfigOk s) (hs : CollectorsOk s) :
    CollectorsOk u := by
  intro c
  rcases effect_llive h with e | rfl
  · rw [e]
    exact chanEffect_acnt_lt (effect_chan h c) (hs c)
  · obtain ⟨-, hacc, -⟩ := hc
    rw [prepareState_llive, getCh_prepareState]
    exact hacc

/-- A channel's history has `size` samples, of which at most `size` count (10_state R64). -/
def ChanHistoryOk (size : Nat) (k : Chan) : Prop := k.hist.length = size ∧ k.hcnt.toNat ≤ size

theorem historiesOk_iff (s : State) : HistoriesOk s ↔ ∀ c, ChanHistoryOk (fftSize s.fftOrder) (getCh s c) :=
  Iff.rfl

theorem clearHistory_ok (size : Nat) (k : Chan) : ChanHistoryOk size (clearHistory size k) :=
  ⟨List.length_replicate, Nat.zero_le _⟩

/-- `last_n` of a long enough sequence has `n` elements. -/
theorem lastN_length {α : Type} {n : Nat} {q : List α} (h : n ≤ q.length) : (lastN n q).length = n := by
  rw [lastN, List.length_drop]
  omega

theorem extendHistory_ok {size : Nat} {k : Chan} (h : ChanHistoryOk size k) (b : List F32) :
    ChanHistoryOk size (extendHistory size b k) := by
  obtain ⟨hlen, -⟩ := h
  constructor
  · exact lastN_length (by rw [List.length_append]; omega)
  · rw [extendHistory, BitVec.toNat_ofNat]
    exact (Nat.mod_le _ _).trans (Nat.min_le_left _ _)

theorem fftChan_history_ok {size : Nat} {k : Chan} (h : ChanHistoryOk size k) (f : F32) :
    ChanHistoryOk size (fftChan size f k) := by
  rcases fftChan_cases size f k with ⟨-, e⟩ | ⟨-, k', rfl, ⟨-, e⟩ | ⟨-, e⟩⟩ <;> rw [e]
  · exact h
  all_goals exact extendHistory_ok (k := { k with fa := { k.fa with rd := k.fa.rd + 1 } }) h _

theorem forall_getCh_setCh {P : Chan → Prop} {s : State} {c : Ch} {x : Chan} (h : ∀ d, P (getCh s d))
    (hx : P x) (d : Ch) : P (getCh (setCh s c x) d) := by
  by_cases hd : d = c
  · subst hd
    rwa [getCh_setCh_same]
  · rw [getCh_setCh_other s x hd]
    exact h d

/-- A frame gives a channel new delay state and ingests one sample into it. -/
theorem getCh_acceptFrame (last : Bool) (d1 d0 : F32) (s : State) (c : Ch) : ∃ st v,
    getCh (acceptFrame last d1 d0 s) c = ingestChan s.llive.toNat v { getCh s c with st := st } := by
  cases c <;> simp only [acceptFrame, frameChan, getCh_left, getCh_right, applyStep_ch, applyStep_llive] <;>
    exact ⟨_, _, rfl⟩

/-- PREPARE and SET_FFT_ORDER clear the histories, to the new F; FFT_STEP keeps the newest F samples; nothing
else touches one. -/
theorem effect_histories {s u : State} (h : Effect s u) (hs : HistoriesOk s) : HistoriesOk u := by
  rw [historiesOk_iff] at hs ⊢
  cases h with
  | prepare =>
    intro c
    rw [prepareState_fftOrder, getCh_prepareState]
    exact clearHistory_ok _ (clearDelay (getCh s c))
  | clear =>
    intro c
    rw [getCh_mapCh]
    exact hs c
  | order ord =>
    intro c
    rw [getCh_mapCh]
    exact clearHistory_ok (fftSize ord) (getCh s c)
  | frame last d1 d0 =>
    intro c
    obtain ⟨-, -, hord, -⟩ := acceptFrame_config last d1 d0 s
    obtain ⟨st, v, e⟩ := getCh_acceptFrame last d1 d0 s c
    rw [hord, e, ChanHistoryOk, ingestChan_hist, ingestChan_hcnt]
    exact hs c
  | ingest c v =>
    refine forall_getCh_setCh hs ?_
    rw [ChanHistoryOk, ingestChan_hist, ingestChan_hcnt]
    exact hs c
  | fft c => exact forall_getCh_setCh hs (fftChan_history_ok (hs c) s.floor)
  | pull c | syncW2R c | syncR2W c => exact forall_getCh_setCh hs (hs c)
  | nothing | commit | setLen | setFloor | apply | ack => exact hs

/-! ## The whole invariant -/

theorem effect_registers {s u : State} (h : Effect s u) (hs : RegistersOk s) : RegistersOk u := by
  obtain ⟨hhand, hconf, hcoll, hhist⟩ := hs
  exact ⟨effect_handshake h hhand, effect_config h hconf, effect_collectors h hconf hcoll,
    effect_histories h hhist⟩

theorem kept_registers {u t : State} (h : Kept u t) (hu : RegistersOk u) : RegistersOk t := by
  simpa only [RegistersOk, HandshakeOk, ConfigOk, CollectorsOk, HistoriesOk, Kept_getCh h, h.pendA, h.pendC,
    h.fftOrder, h.accLen, h.llive, h.floor] using hu

theorem exec_registers {i : Instr} {s t : State} (h : RegistersOk s) (hi : exec i s = .next t) :
    RegistersOk t := by
  obtain ⟨u, he, hk⟩ := exec_affects hi
  exact kept_registers hk (effect_registers he h)

theorem sameBlock_registers {s s' : State} (hb : SameBlock s s') (h : RegistersOk s) : RegistersOk s' := by
  obtain ⟨_, _, _, _, rfl⟩ := hb
  exact h

theorem resetBlock_registers (s : State) : RegistersOk (resetBlock s) := by
  have hconf : ConfigOk State.reset := by unfold ConfigOk; decide
  refine ⟨nofun, hconf, fun c => ?_, fun c => ?_⟩ <;> rw [getCh_resetBlock]
  · exact Nat.succ_pos 2047
  · exact clearHistory_ok 2048 Chan.reset

/-- Settles O54: every effect keeps each of the four parts, and the reset event gives them. -/
theorem registersStayLegal : Obligations.RegistersStayLegal := fun _ _ =>
  step_preserves (fun _ _ => sameBlock_registers) resetBlock_registers fun _ _ _ => exec_registers

end Sys2Proof.Machine
end

section
/-!
PROOF. The unread snapshots and OUTBUF keep their legal sizes (10_state R50, R62, R63, R65).
-/

namespace Sys2Proof.Machine

open Sys2Proof.Safety

/-! ## The slots between two pointers -/

/-- The `n` slots from pointer `rd` on, in order round the ring. -/
def slotsFrom {α : Type} (slot : Vector α 32) (rd : Ptr) (n : Nat) : List α :=
  (List.range n).map fun i => slot[slotIx (rd + BitVec.ofNat 6 i)]

theorem contentsA_eq (f : FifoA) : contentsA f = slotsFrom f.slot f.rd (trueLevelA f) := rfl

theorem contentsB_eq (f : FifoB) : contentsB f = slotsFrom f.slot f.rd (levelB f) := rfl

/-- Fewer than 32 slots on, a slot that is filled lies behind the ones before it. -/
theorem slotsFrom_set {α : Type} (slot : Vector α 32) {rd wr : Ptr} {n : Nat} (hn : n < 32)
    (hwr : rd + BitVec.ofNat 6 n = wr) (v : α) :
    slotsFrom (slot.set (slotIx wr) v) rd (n + 1) = slotsFrom slot rd n ++ [v] := by
  subst hwr
  simp only [slotsFrom, List.range_succ, List.map_append, List.map_singleton, Fin.getElem_fin,
    Vector.getElem_set_self]
  congr 1
  refine List.map_congr_left fun i hi => ?_
  have hi := List.mem_range.mp hi
  refine Vector.getElem_set_ne _ _ fun e => ?_
  exact slotIx_ne hn (by omega) (by omega) (Fin.ext e)

theorem slotsFrom_drop {α : Type} (slot : Vector α 32) (rd : Ptr) (m n : Nat) :
    slotsFrom slot (rd + BitVec.ofNat 6 m) n = (slotsFrom slot rd (m + n)).drop m := by
  simp only [slotsFrom, List.range_add, List.map_append, List.map_map]
  rw [List.drop_left' (by simp)]
  refine List.map_congr_left fun i _ => ?_
  simp only [Function.comp_apply, BitVec.add_assoc, BitVec.ofNat_add]

/-! ## What a push, a pull and a flush do to the unread snapshots -/

theorem contentsA_wr_succ {f : FifoA} (h : trueLevelA f < 32) (v : List F32) :
    contentsA { f with slot := f.slot.set (slotIx f.wr) v, wr := f.wr + 1 } = contentsA f ++ [v] := by
  have hlevel : trueLevelA { f with slot := f.slot.set (slotIx f.wr) v, wr := f.wr + 1 } = trueLevelA f + 1 := by
    simp only [trueLevelA] at *
    bv_omega
  rw [contentsA_eq, hlevel]
  exact slotsFrom_set f.slot h (rd_add_trueLevelA f) v

theorem contentsB_wr_succ {f : FifoB} (h : levelB f < 32) (v : Spectrum) :
    contentsB { f with slot := f.slot.set (slotIx f.wr) v, wr := f.wr + 1 } = contentsB f ++ [v] := by
  have hlevel : levelB { f with slot := f.slot.set (slotIx f.wr) v, wr := f.wr + 1 } = levelB f + 1 :=
    levelB_wr_succ f (by omega)
  rw [contentsB_eq, hlevel]
  exact slotsFrom_set f.slot h (rd_add_levelB f) v

theorem contentsA_rd_succ {f : FifoA} (h : 0 < trueLevelA f) :
    contentsA { f with rd := f.rd + 1 } = (contentsA f).drop 1 := by
  have hlevel : 1 + trueLevelA { f with rd := f.rd + 1 } = trueLevelA f := by
    simp only [trueLevelA] at *
    bv_omega
  rw [contentsA_eq, contentsA_eq, ← hlevel]
  exact slotsFrom_drop f.slot f.rd 1 _

theorem contentsB_rd_add {f : FifoB} {n : Nat} (h : n ≤ levelB f) :
    contentsB { f with rd := f.rd + BitVec.ofNat 6 n } = (contentsB f).drop n := by
  have hlevel : n + levelB { f with rd := f.rd + BitVec.ofNat 6 n } = levelB f := by
    simp only [levelB] at *
    bv_omega
  rw [contentsB_eq, contentsB_eq, ← hlevel]
  exact slotsFrom_drop f.slot f.rd n _

theorem contentsA_flushA (f : FifoA) : contentsA (flushA f) = [] := by
  simp [contentsA, trueLevelA, flushA]

theorem contentsB_flushB (f : FifoB) : contentsB (flushB f) = [] := by
  simp [contentsB, levelB, flushB]

/-- A push adds its snapshot behind the unread ones, or is dropped. -/
theorem contentsA_pushA {f : FifoA} (h : trueLevelA f ≤ levelW f) (v : List F32) :
    contentsA (pushA f v).2 = contentsA f ++ if levelW f < 30 then [v] else [] := by
  rcases pushA_cases f v with ⟨hl, e⟩ | ⟨hl, e⟩ <;> rw [e]
  · rw [if_neg (by omega), List.append_nil]
  · rw [if_pos hl, contentsA_wr_succ (by omega)]

theorem contentsB_pushB (f : FifoB) (v : Spectrum) :
    contentsB (pushB f v).2 = contentsB f ++ if levelB f < 30 then [v] else [] := by
  rcases pushB_cases f v with ⟨hl, e⟩ | ⟨hl, e⟩ <;> rw [e]
  · rw [if_neg (by omega), List.append_nil]
  · rw [if_pos hl, contentsB_wr_succ (by omega)]

/-- A run of pulls takes the oldest unread snapshots, and its result is one of them (41_fifo R281). -/
theorem contentsB_pullMany {f fb : FifoB} {n : Nat} {v : Spectrum} (h : n ≤ levelB f)
    (hp : pullMany n f none = (some v, fb)) : v ∈ contentsB f ∧ contentsB fb = (contentsB f).drop n := by
  rw [pullMany_eq n f none h] at hp
  obtain ⟨hv, rfl⟩ := Prod.mk.inj hp
  refine ⟨?_, contentsB_rd_add h⟩
  have hn : n ≠ 0 := by
    rintro rfl
    cases hv
  rw [if_neg hn] at hv
  exact List.mem_map.mpr ⟨n - 1, List.mem_range.mpr (by omega), Option.some.inj hv⟩

/-! ## Legal snapshots -/

/-- Every unread block of FIFO-A has `len` samples (10_state R62). -/
def BlocksOk (len : Nat) (f : FifoA) : Prop := ∀ b ∈ contentsA f, b.length = len

/-- A frame has a legal length and that many bins (10_state R63). -/
def FrameOk (v : Spectrum) : Prop := frameLenLegal v.len = true ∧ v.data.length = v.len.toNat

/-- Every unread frame of FIFO-B is legal (10_state R63). -/
def FramesOk (f : FifoB) : Prop := ∀ v ∈ contentsB f, FrameOk v

/-- OUTBUF is valid with a legal length, or not valid with length 0 (10_state R50, R65). -/
def OutBufOk (o : OutBuf) : Prop := if o.valid then frameLenLegal o.len = true else o.len = 0#13

theorem snapshotsOk_iff (s : State) : SnapshotsOk s ↔
    ∀ c, BlocksOk s.llive.toNat (getCh s c).fa ∧ FramesOk (getCh s c).fb ∧ OutBufOk (getCh s c).ob := Iff.rfl

theorem blocksOk_flushA (len : Nat) (f : FifoA) : BlocksOk len (flushA f) := by
  rw [BlocksOk, contentsA_flushA]
  exact nofun

theorem framesOk_flushB (f : FifoB) : FramesOk (flushB f) := by
  rw [FramesOk, contentsB_flushB]
  exact nofun

theorem blocksOk_pushA {len : Nat} {f : FifoA} (hl : trueLevelA f ≤ levelW f) (h : BlocksOk len f)
    {b : List F32} (hb : b.length = len) : BlocksOk len (pushA f b).2 := by
  intro b' hb'
  rw [contentsA_pushA hl] at hb'
  rcases List.mem_append.mp hb' with hb' | hb'
  · exact h b' hb'
  · split at hb'
    · rwa [List.mem_singleton.mp hb']
    · cases hb'

theorem framesOk_pushB {f : FifoB} (h : FramesOk f) {v : Spectrum} (hv : FrameOk v) :
    FramesOk (pushB f v).2 := by
  intro v' hv'
  rw [contentsB_pushB] at hv'
  rcases List.mem_append.mp hv' with hv' | hv'
  · exact h v' hv'
  · split at hv'
    · rwa [List.mem_singleton.mp hv']
    · cases hv'

/-- The frame computed from a history has half as many bins as the history has samples (43_spectrum R345). -/
theorem frameOk_spectrum {ord : BitVec 4} (h : orderLegal ord = true) (hist : List F32) (f : F32) :
    FrameOk (spectrum hist (fftSize ord) f) := by
  have hlen : frameLenLegal (BitVec.ofNat 13 (fftSize ord / 2)) = true ∧
      fftSize ord / 2 = (BitVec.ofNat 13 (fftSize ord / 2)).toNat := by
    rcases fftSize_of_legal h with e | e | e <;> rw [e] <;> decide
  rw [FrameOk, spectrum, List.length_map, List.length_range]
  exact hlen

/-! ## What each effect keeps -/

/-- FFT_STEP pulls from FIFO-A only what its view shows, and pushes to FIFO-B only a computed frame. -/
theorem fftChan_snapshots {ord : BitVec 4} (hord : orderLegal ord = true) (f : F32) {k : Chan} {len : Nat}
    (hl : levelR k.fa ≤ trueLevelA k.fa) (hA : BlocksOk len k.fa) (hB : FramesOk k.fb) :
    BlocksOk len (fftChan (fftSize ord) f k).fa ∧ FramesOk (fftChan (fftSize ord) f k).fb := by
  rcases fftChan_cases (fftSize ord) f k with ⟨-, e⟩ | ⟨hpos, k', rfl, h⟩
  · rw [e]
    exact ⟨hA, hB⟩
  · have hA' : BlocksOk len { k.fa with rd := k.fa.rd + 1 } := by
      intro b hb
      rw [contentsA_rd_succ (by omega)] at hb
      exact hA b (List.mem_of_mem_drop hb)
    rcases h with ⟨-, e⟩ | ⟨-, e⟩ <;> rw [e]
    · exact ⟨hA', framesOk_pushB hB (frameOk_spectrum hord _ f)⟩
    · exact ⟨hA', hB⟩

/-- With the FIFO's views in order, no effect but PREPARE's flush leaves in FIFO-A a block of another length:
INGEST pushes the whole accumulator, and the other effects push nothing. -/
theorem chanEffect_snapshots {s : State} {k k' : Chan} (h : ChanEffect s k k') (hl : FifoAOk k.fa)
    (hord : orderLegal s.fftOrder = true) (hA : BlocksOk s.llive.toNat k.fa) (hB : FramesOk k.fb)
    (hO : OutBufOk k.ob) : BlocksOk s.llive.toNat k'.fa ∧ FramesOk k'.fb ∧ OutBufOk k'.ob := by
  obtain ⟨hR, hW, -⟩ := hl
  cases h with
  | nothing | clear | syncW2R | syncR2W => exact ⟨hA, hB, hO⟩
  | prepare => exact ⟨blocksOk_flushA _ _, framesOk_flushB _, rfl⟩
  | order => exact ⟨hA, framesOk_flushB _, hO⟩
  | pull n v fb hn hp =>
    obtain ⟨hv, e⟩ := contentsB_pullMany hn hp
    obtain ⟨hlen, -⟩ := hB v hv
    refine ⟨hA, fun v' hv' => hB v' ?_, hlen⟩
    rw [e] at hv'
    exact List.mem_of_mem_drop hv'
  | ingest v st =>
    rw [ingestChan_fb, ingestChan_ob]
    refine ⟨?_, hB, hO⟩
    rcases ingestChan_cases s.llive.toNat v { k with st := st } with ⟨-, e⟩ | ⟨-, e⟩ <;> rw [e]
    · exact hA
    · exact blocksOk_pushA hW hA (memPrefix_length _ _)
  | fft =>
    obtain ⟨hA', hB'⟩ := fftChan_snapshots hord s.floor hR hA hB
    rw [fftChan_ob]
    exact ⟨hA', hB', hO⟩

theorem exec_snapshots {i : Instr} {s t : State} (hl : LevelsOk s) (hr : RegistersOk s) (hs : SnapshotsOk s)
    (hi : exec i s = .next t) : SnapshotsOk t := by
  obtain ⟨-, ⟨hord, -⟩, -⟩ := hr
  obtain ⟨u, he, hk⟩ := exec_affects hi
  rw [snapshotsOk_iff] at hs ⊢
  intro c
  obtain ⟨hA, hB, hO⟩ := hs c
  obtain ⟨hlA, -⟩ := hl c
  have hu := chanEffect_snapshots (effect_chan he c) hlA hord hA hB hO
  rw [Kept_getCh hk, hk.llive]
  rcases effect_llive he with e | rfl
  · rwa [e]
  · obtain ⟨-, hBO⟩ := hu
    refine ⟨?_, hBO⟩
    rw [getCh_prepareState]
    exact blocksOk_flushA _ _

theorem resetBlock_snapshots (s : State) : SnapshotsOk (resetBlock s) := by
  intro c
  rw [getCh_resetBlock]
  exact ⟨blocksOk_flushA _ FifoA.reset, framesOk_flushB FifoB.reset, rfl⟩

/-- The states whose levels, registers and snapshots are in order. -/
def SnapshotsDue (s : State) : Prop := LevelsOk s ∧ RegistersOk s ∧ SnapshotsOk s

theorem sameBlock_snapshotsDue {s s' : State} (hb : SameBlock s s') (h : SnapshotsDue s) : SnapshotsDue s' := by
  obtain ⟨_, _, _, _, rfl⟩ := hb
  exact h

/-- Settles O55: with the levels and registers in order, every effect keeps the snapshots' sizes. -/
theorem snapshotsKeepTheirSizes : Obligations.SnapshotsKeepTheirSizes := fun _ _ hl hr hs =>
  step_establishes (P := SnapshotsDue) (fun _ _ => sameBlock_snapshotsDue) (fun _ ⟨_, _, h⟩ => h)
    resetBlock_snapshots (fun _ _ _ ⟨hl, hr, hs⟩ => exec_snapshots hl hr hs) ⟨hl, hr, hs⟩

end Sys2Proof.Machine
end

section
/-!
PROOF. Reads of the coefficient registers, and every register read from the reset state (40_filter_chain R211,
R212, 10_state R33, 70_reset R481).
-/

namespace Sys2Proof.Machine

/-! ## The shadow and the live set -/

/-- The read rows of the shadow answer with the shadow. -/
theorem exec_readShadow (s : State) :
    exec .rdChainCfg s = .next (respond (cfgWord s.sh.cfg) s) ∧
    (∀ i k, exec (.rdCoefS07 i k) s = .next (respond (tapGet s.sh.coef[secOf07 i] k) s)) ∧
    ∀ k, exec (.rdCoefS8 k) s = .next (respond (tapGet s.sh.coef[8] k) s) :=
  ⟨rfl, fun _ _ => rfl, fun _ => rfl⟩

/-- Settles O22: no read of the shadow looks at COMMIT_PENDING. -/
theorem shadowRegistersReadBack : Obligations.ShadowRegistersReadBack := exec_readShadow

/-- The read rows of the live set answer with the live set, or with a free value. -/
theorem exec_readLive (s : State) :
    exec .rdChainLive s = .next (respondLive (cfgWord s.lv.cfg) s) ∧
    (∀ i k, exec (.rdCoefLiveS07 i k) s = .next (respondLive (tapGet s.lv.coef[secOf07 i] k) s)) ∧
    ∀ k, exec (.rdCoefLiveS8 k) s = .next (respondLive (tapGet s.lv.coef[8] k) s) :=
  ⟨rfl, fun _ _ => rfl, fun _ => rfl⟩

theorem respondLive_of_not_pending {s : State} (h : s.pendC = false) (v : Word) :
    respondLive v s = respond v s := by
  rcases respondLive_cases v s with ⟨-, e⟩ | ⟨hp, -⟩
  · exact e
  · rw [h] at hp
    cases hp

theorem respondLive_of_pending {s : State} (h : s.pendC = true) (v : Word) : ∃ v', respondLive v s =
    { s with resp := some ⟨false, some v'⟩, free := s.free + 1 } := by
  rcases respondLive_cases v s with ⟨hp, -⟩ | ⟨-, e⟩
  · rw [h] at hp
    cases hp
  · exact ⟨_, e⟩

/-- Settles O23: a live read answers exactly while no commit is pending, and draws a free value while one is. -/
theorem liveRegistersReadBack : Obligations.LiveRegistersReadBack := by
  intro s
  obtain ⟨hcfg, hcoef, hcoef8⟩ := exec_readLive s
  constructor
  · intro h
    simp only [respondLive_of_not_pending h] at hcfg hcoef hcoef8
    exact ⟨hcfg, hcoef, hcoef8⟩
  · intro h
    have drawn {i : Instr} {v : Word} (hi : exec i s = .next (respondLive v s)) : ∃ v', exec i s =
        .next { s with resp := some ⟨false, some v'⟩, free := s.free + 1 } := by
      obtain ⟨v', e⟩ := respondLive_of_pending h v
      exact ⟨v', by rw [hi, e]⟩
    exact ⟨drawn hcfg, fun i k => drawn (hcoef i k), fun k => drawn (hcoef8 k)⟩

/-! ## The reset state -/

/-- A read row answers with the value of its register's read rule. -/
theorem exec_readRow_of_respond {r : Reg} {v : Word} {s : State} (h : readReg r s = respond v s) :
    exec (readRow r) s = .next { s with resp := some ⟨false, some v⟩ } := by
  rw [exec_readRow, h]
  rfl

theorem getCh_reset (c : Ch) : getCh State.reset c = Chan.reset := by
  cases c <;> rfl

/-- Both coefficient files hold the identity sections after reset (10_state R56). -/
theorem tapGet_coefFile_reset (i : Sec) (k : Tap) :
    tapGet CoefFile.reset.coef[i] k = if k = .b0 then 0x3F800000#32 else 0#32 := by
  have h : CoefFile.reset.coef[i] = Taps.identity := Vector.getElem_replicate i.isLt
  rw [h]
  cases k <;> rfl

theorem readReg_chainLive_reset :
    readReg .chainLive State.reset = respond (cfgWord ChainCfg.reset) State.reset :=
  respondLive_of_not_pending (s := State.reset) rfl _

theorem readReg_coef_reset (i : Sec) (k : Tap) : readReg (.coef i k) State.reset =
    respond (if k = .b0 then 0x3F800000#32 else 0#32) State.reset :=
  congrArg (respond · State.reset) (tapGet_coefFile_reset i k)

theorem readReg_coefLive_reset (i : Sec) (k : Tap) : readReg (.coefLive i k) State.reset =
    respond (if k = .b0 then 0x3F800000#32 else 0#32) State.reset :=
  (respondLive_of_not_pending rfl _).trans (congrArg (respond · State.reset) (tapGet_coefFile_reset i k))

/-- OUTBUF is not valid after reset, so its words read as 0 (41_fifo R285). -/
theorem readReg_outbuf_reset (c : Ch) (j : BitVec 12) :
    readReg (.outbuf c j) State.reset = respond 0#32 State.reset := by
  have h : valOutbuf c j State.reset = 0#32 := by
    rw [valOutbuf, getCh_reset]
    exact if_neg nofun
  exact congrArg (respond · State.reset) h

/-- The views of both channels are 0 after reset. -/
theorem views_reset (c : Ch) :
    valFifoaLevel c State.reset = 0#32 ∧ valFifobLevel c State.reset = 0#32 ∧
    valFifoaPtr c State.reset = 0#32 ∧ valFifobPtr c State.reset = 0#32 ∧
    valOutbufInfo c State.reset = 0#32 ∧ valHistCnt c State.reset = 0#32 := by
  simp only [valFifoaLevel, valFifobLevel, valFifoaPtr, valFifobPtr, valOutbufInfo, valHistCnt, getCh_reset]
  decide

/-- Settles O60: each register's read rule, evaluated in the reset state. -/
theorem resetValuesReadBack : Obligations.ResetValuesReadBack := by
  have reads {r : Reg} {v w : Word} (hr : readReg r State.reset = respond w State.reset) (hw : w = v) :
      exec (readRow r) State.reset = .next { State.reset with resp := some ⟨false, some v⟩ } :=
    exec_readRow_of_respond (hw ▸ hr)
  refine ⟨reads rfl rfl, reads rfl (by decide), reads rfl rfl, reads rfl (by decide), reads rfl (by decide),
    reads readReg_chainLive_reset (by decide), reads rfl (by decide), reads rfl (by decide),
    reads rfl (by decide), reads rfl (by decide), reads rfl (by decide), reads rfl rfl,
    reads rfl (by decide), fun c => ?_, fun i k => ?_, fun c j => ?_⟩
  · obtain ⟨hA, hB, hpA, hpB, hinfo, hhist⟩ := views_reset c
    exact ⟨reads rfl hA, reads rfl hB, reads rfl hpA, reads rfl hpB, reads rfl hinfo, reads rfl hhist⟩
  · exact ⟨reads (readReg_coef_reset i k) rfl, reads (readReg_coefLive_reset i k) rfl⟩
  · exact reads (readReg_outbuf_reset c j) rfl

end Sys2Proof.Machine
end

section
/-!
PROOF. The address map is the inverse of the registers' addresses and maps 8307 words (10_state R33, 44_control
R407).
-/

namespace Sys2Proof.Machine

/-! ## What is mapped where -/

/-- A listed register has the address it is listed at. -/
theorem regAddr_of_lowMap : ∀ p ∈ lowMap, (regAddr p.2).toNat = p.1 := by
  decide

theorem index_of_ofIndex {n : Nat} {k : Tap} (h : Tap.ofIndex n = some k) : k.index = n := by
  unfold Tap.ofIndex at h
  split at h <;> cases h <;> rfl

/-- The coefficient word at an offset lies at that offset: section by section, tap by tap. -/
theorem offset_of_coefAt {off : Nat} {p : Sec × Tap} (h : coefAt off = some p) (ha : off % 4 = 0) :
    0x20 * p.1.val + 4 * p.2.index = off := by
  unfold coefAt at h
  split at h
  · obtain ⟨k, hk, rfl⟩ := Option.map_eq_some_iff.mp h
    have := index_of_ofIndex hk
    simp only
    omega
  · cases h

theorem regAddr_coef_toNat (i : Sec) (k : Tap) :
    (regAddr (.coef i k)).toNat = 0x0100 + 0x20 * i.val + 4 * k.index ∧
    (regAddr (.coefLive i k)).toNat = 0x0300 + 0x20 * i.val + 4 * k.index := by
  revert i
  cases k <;> decide

theorem regAddr_outbuf_toNat (j : BitVec 12) :
    (regAddr (.outbuf .left j)).toNat = 0x4000 + 4 * j.toNat ∧
    (regAddr (.outbuf .right j)).toNat = 0x8000 + 4 * j.toNat := by
  have := j.isLt
  simp only [regAddr, BitVec.toNat_ofNat]
  omega

/-- What an address can be mapped to, region by region. -/
theorem regAt_cases {a : Addr} {r : Reg} (h : regAt a = some r) : a.toNat % 4 = 0 ∧
    (lowMap.lookup a.toNat = some r ∨
    (0x100 ≤ a.toNat ∧ ∃ p, coefAt (a.toNat - 0x100) = some p ∧ r = .coef p.1 p.2) ∨
    (0x300 ≤ a.toNat ∧ ∃ p, coefAt (a.toNat - 0x300) = some p ∧ r = .coefLive p.1 p.2) ∨
    (0x4000 ≤ a.toNat ∧ a.toNat < 0x8000 ∧
      r = .outbuf .left (BitVec.ofNat 12 ((a.toNat - 0x4000) / 4))) ∨
    (0x8000 ≤ a.toNat ∧ a.toNat < 0xC000 ∧
      r = .outbuf .right (BitVec.ofNat 12 ((a.toNat - 0x8000) / 4)))) := by
  unfold regAt at h
  simp only [bne_iff_ne, ne_eq, Bool.and_eq_true, decide_eq_true_eq] at h
  split at h
  · cases h
  next hmod =>
  refine ⟨not_not.mp hmod, ?_⟩
  split at h
  · exact .inl h
  split at h
  next hc =>
    obtain ⟨p, hp, rfl⟩ := Option.map_eq_some_iff.mp h
    exact .inr (.inl ⟨hc.1, p, hp, rfl⟩)
  split at h
  next hc =>
    obtain ⟨p, hp, rfl⟩ := Option.map_eq_some_iff.mp h
    exact .inr (.inr (.inl ⟨hc.1, p, hp, rfl⟩))
  split at h
  next hc => exact .inr (.inr (.inr (.inl ⟨hc.1, hc.2, (Option.some.inj h).symm⟩)))
  split at h
  next hc => exact .inr (.inr (.inr (.inr ⟨hc.1, hc.2, (Option.some.inj h).symm⟩)))
  · cases h

theorem mem_of_lookup {α β : Type} [BEq α] [LawfulBEq α] {l : List (α × β)} {a : α} {b : β}
    (h : l.lookup a = some b) : (a, b) ∈ l := by
  obtain ⟨l₁, l₂, rfl, -⟩ := List.lookup_eq_some_iff.mp h
  exact List.mem_append_right l₁ List.mem_cons_self

/-- An address is mapped only to the register whose address it is. -/
theorem regAddr_of_regAt {a : Addr} {r : Reg} (h : regAt a = some r) : regAddr r = a := by
  apply BitVec.eq_of_toNat_eq
  obtain ⟨hmod, hlow | ⟨hlo, p, hp, rfl⟩ | ⟨hlo, p, hp, rfl⟩ | ⟨hlo, hhi, rfl⟩ | ⟨hlo, hhi, rfl⟩⟩ := regAt_cases h
  · exact regAddr_of_lowMap _ (mem_of_lookup hlow)
  · have hoff := offset_of_coefAt hp (by omega)
    rw [(regAddr_coef_toNat p.1 p.2).1]
    omega
  · have hoff := offset_of_coefAt hp (by omega)
    rw [(regAddr_coef_toNat p.1 p.2).2]
    omega
  · rw [(regAddr_outbuf_toNat _).1, BitVec.toNat_ofNat]
    omega
  · rw [(regAddr_outbuf_toNat _).2, BitVec.toNat_ofNat]
    omega

theorem regAt_iff (a : Addr) (r : Reg) : regAt a = some r ↔ regAddr r = a :=
  ⟨regAddr_of_regAt, fun h => h ▸ regAt_regAddr r⟩

/-! ## How many addresses are mapped -/

/-- How many of the `len` addresses from `lo` on are mapped. -/
def mappedFrom (lo len : Nat) : Nat :=
  Nat.count (fun n => (regAt (BitVec.ofNat 16 (lo + n))).isSome = true) len

theorem mappedFrom_zero (len : Nat) :
    mappedFrom 0 len = ((List.range len).filter fun n => (regAt (BitVec.ofNat 16 n)).isSome).length := by
  simp only [mappedFrom, Nat.count, Nat.zero_add, Bool.decide_eq_true, List.countP_eq_length_filter]

theorem mappedFrom_add {lo a mid : Nat} (h : lo + a = mid) (b : Nat) :
    mappedFrom lo (a + b) = mappedFrom lo a + mappedFrom mid b := by
  subst h
  simp only [mappedFrom, Nat.count_add, Nat.add_assoc]

/-- Above the coefficients, the mapped addresses are the words of the two output buffers. -/
theorem regAt_isSome_above_coef {n : Nat} (hlo : 0x420 ≤ n) (hhi : n < 2 ^ 16) :
    (regAt (BitVec.ofNat 16 n)).isSome = true ↔ 0x4000 ≤ n ∧ n < 0xC000 ∧ n % 4 = 0 := by
  simp only [regAt, BitVec.toNat_ofNat, Nat.mod_eq_of_lt hhi, bne_iff_ne, ne_eq, Bool.and_eq_true,
    decide_eq_true_eq]
  split_ifs <;> simp <;> omega

/-- 25 single registers, and 45 words of each coefficient file. -/
theorem mappedFrom_to_coef : mappedFrom 0 0x420 = 115 := by
  decide +kernel

theorem mappedFrom_unmapped {lo len : Nat}
    (h : (0x420 ≤ lo ∧ lo + len ≤ 0x4000) ∨ (0xC000 ≤ lo ∧ lo + len ≤ 2 ^ 16)) : mappedFrom lo len = 0 := by
  rw [mappedFrom]
  refine Nat.count_of_forall_not fun n hn => ?_
  rw [regAt_isSome_above_coef (by omega) (by omega)]
  omega

/-- Inside the output buffers, one address in four is mapped. -/
theorem mappedFrom_outbuf {lo len : Nat} (hlo : 0x4000 ≤ lo) (hhi : lo + len ≤ 0xC000) (ha : lo % 4 = 0) :
    mappedFrom lo len = Nat.count (· ≡ 0 [MOD 4]) len := by
  rw [mappedFrom, Nat.count, Nat.count]
  refine List.countP_congr fun n hn => ?_
  have hn := List.mem_range.mp hn
  simp only [decide_eq_true_eq]
  rw [regAt_isSome_above_coef (by omega) (by omega), Nat.ModEq]
  omega

/-- 115 words up to the coefficients, none before the output buffers, 4096 in each of these, none after them. -/
theorem mappedFrom_all : mappedFrom 0 (2 ^ 16) = 8307 :=
  calc
    mappedFrom 0 (0x420 + 0x3BE0 + 0x8000 + 0x4000)
    _ = mappedFrom 0 0x420 + mappedFrom 0x420 0x3BE0 + mappedFrom 0x4000 0x8000 + mappedFrom 0xC000 0x4000 := by
      rw [mappedFrom_add (mid := 0xC000) rfl, mappedFrom_add (mid := 0x4000) rfl,
        mappedFrom_add (mid := 0x420) rfl]
    _ = 115 + 0 + Nat.count (· ≡ 0 [MOD 4]) 0x8000 + 0 := by
      rw [mappedFrom_to_coef, mappedFrom_unmapped (by omega), mappedFrom_outbuf (by omega) (by omega) rfl,
        mappedFrom_unmapped (by omega)]
    _ = 8307 := by
      rw [Nat.count_modEq_card _ (by decide)]
      decide

/-- Settles O4: the map is the inverse of the addresses, its words are counted region by region, and each address
is the listed one by definition. -/
theorem addressMapIsTheDispatchTable : Obligations.AddressMapIsTheDispatchTable := by
  refine ⟨regAt_iff, ?_, rfl, rfl, rfl, rfl, rfl, rfl, rfl, rfl, rfl, rfl, rfl, rfl, rfl, rfl, rfl, rfl, rfl, rfl,
    rfl, rfl, rfl, rfl, rfl, rfl, rfl, fun _ _ => ⟨rfl, rfl⟩, fun _ => ⟨rfl, rfl⟩⟩
  rw [← mappedFrom_zero]
  exact mappedFrom_all

end Sys2Proof.Machine
end

section
/-!
PROOF. The output port: which operations touch the frames delivered and the frame waiting (20_memory R115,
40_filter_chain R203, R204, 70_reset R484).
-/

namespace Sys2Proof.Machine

open Sys2Proof.Safety

/-! ## The rows of a bus access, as one whole access -/

theorem exec_decodeAccess_read (a : Addr) (s : State) : exec (decodeAccess .rd a) s = .next (busRead a s) := by
  unfold decodeAccess
  split
  next => rfl
  next hm =>
    cases hr : regAt a with
    | none => simp [exec, execBusUnmapped, busRead, hm, hr]
    | some r => simp [exec_readRow, busRead, hm, hr]

theorem exec_decodeAccess_write (a : Addr) (st : Strobes) (v : Word) (s : State) :
    exec (decodeAccess (.wr st v) a) s = .next (busWrite a st v s) := by
  unfold decodeAccess
  split
  next => rfl
  next hm =>
    cases hr : regAt a with
    | none => simp [exec, execBusUnmapped, strobed, busWrite, hm, hr]
    | some r =>
      have ha := (regAt_iff a r).mp hr
      simp [exec_writeRow, strobed, busWrite, hm, hr, ha]

/-! ## What leaves the output port alone -/

/-- `t` has the output register and the record of delivered frames of `s`. -/
structure SameOutput (s t : State) : Prop where
  out : t.out = s.out
  taken : t.taken = s.taken

theorem SameOutput.outputFrames {s t : State} (h : SameOutput s t) : outputFrames t = outputFrames s := by
  rw [Safety.outputFrames, Safety.outputFrames, h.out, h.taken]

theorem sameOutput_raise (acc : Access) (c : ErrCode) (a : Addr) (s : State) :
    SameOutput s (raise acc c a s) := ⟨rfl, rfl⟩

theorem sameOutput_respondLive (v : Word) (s : State) : SameOutput s (respondLive v s) := by
  rcases respondLive_cases v s with ⟨-, e⟩ | ⟨-, e⟩ <;> rw [e] <;> exact ⟨rfl, rfl⟩

theorem sameOutput_strobed {a : Addr} {st : Strobes} {v : Word} {body : State → State} {s : State}
    (h : SameOutput s (body s)) : SameOutput s (strobed a st v body s) := by
  rcases strobed_cases a st v body s with ⟨-, e⟩ | ⟨-, e⟩ <;> rw [e]
  · exact h
  · exact sameOutput_raise _ _ _ s

theorem sameOutput_refuseReadOnly (r : Reg) (st : Strobes) (v : Word) (s : State) :
    SameOutput s (refuseReadOnly r st v s) := sameOutput_strobed (sameOutput_raise _ _ _ s)

theorem sameOutput_writeShadow (a : Addr) (v : Word) (sh : CoefFile) (s : State) :
    SameOutput s (writeShadow a v sh s) := by
  rcases writeShadow_cases a v sh s with ⟨-, e⟩ | ⟨-, e⟩ <;> rw [e] <;> exact ⟨rfl, rfl⟩

theorem sameOutput_writeAccLen (v : Word) (s : State) : SameOutput s (writeAccLen v s) := by
  unfold writeAccLen
  split <;> exact ⟨rfl, rfl⟩

theorem sameOutput_writeSilenceFloor (v : Word) (s : State) : SameOutput s (writeSilenceFloor v s) := by
  unfold writeSilenceFloor
  split <;> exact ⟨rfl, rfl⟩

theorem sameOutput_applyStep (s : State) : SameOutput s (applyStep s) := by
  rcases applyStep_cases s with ⟨-, -, e⟩ | ⟨-, e⟩ <;> rw [e] <;> exact ⟨rfl, rfl⟩

/-! ## Commands -/

theorem sameOutput_doCommit (s : State) : SameOutput s (doCommit s) := by
  unfold doCommit
  split <;> exact ⟨rfl, rfl⟩

theorem sameOutput_doPrepare (s : State) : SameOutput s (doPrepare s) := by
  unfold doPrepare
  split
  · exact sameOutput_raise _ _ _ s
  · rw [prepareState_eq]
    exact ⟨rfl, rfl⟩

theorem sameOutput_doSetFftOrder (ord : BitVec 4) (s : State) : SameOutput s (doSetFftOrder ord s) := by
  unfold doSetFftOrder
  split
  · exact sameOutput_raise _ _ _ s
  · split <;> exact ⟨rfl, rfl⟩

theorem sameOutput_doPullFrame (c : Ch) (s : State) : SameOutput s (doPullFrame c s) := by
  unfold doPullFrame
  split <;> exact ⟨rfl, rfl⟩

theorem sameOutput_doPullLatest (c : Ch) (s : State) : SameOutput s (doPullLatest c s) := by
  unfold doPullLatest
  dsimp only
  split <;> exact ⟨rfl, rfl⟩

/-- No command word touches the output port. -/
theorem sameOutput_runCommand (w : Word) (s : State) : SameOutput s (runCommand w s) := by
  unfold runCommand
  split
  next => exact ⟨rfl, rfl⟩
  next => exact sameOutput_doCommit s
  next => exact sameOutput_doPrepare s
  next => exact ⟨rfl, rfl⟩
  next => exact sameOutput_doSetFftOrder _ s
  next => exact sameOutput_doPullFrame _ s
  next => exact sameOutput_doPullLatest _ s
  next => exact sameOutput_raise _ _ _ s

/-! ## Bus accesses -/

theorem sameOutput_readReg (r : Reg) (s : State) : SameOutput s (readReg r s) := by
  cases r with
  | chainLive | coefLive => exact sameOutput_respondLive _ s
  | _ => exact ⟨rfl, rfl⟩

theorem sameOutput_writeReg (r : Reg) (v : Word) (s : State) : SameOutput s (writeReg r v s) := by
  cases r with
  | cmd => exact sameOutput_runCommand v s
  | chainCfg | coef => exact sameOutput_writeShadow _ _ _ s
  | accLen => exact sameOutput_writeAccLen v s
  | silenceFloor => exact sameOutput_writeSilenceFloor v s
  | _ => exact ⟨rfl, rfl⟩

theorem sameOutput_busRead (a : Addr) (s : State) : SameOutput s (busRead a s) := by
  unfold busRead
  split
  · exact sameOutput_raise _ _ _ s
  · split
    · exact sameOutput_raise _ _ _ s
    · exact sameOutput_readReg _ s

theorem sameOutput_busWrite (a : Addr) (st : Strobes) (v : Word) (s : State) :
    SameOutput s (busWrite a st v s) := by
  unfold busWrite
  split
  · exact sameOutput_raise _ _ _ s
  · split
    · exact sameOutput_raise _ _ _ s
    · split
      · exact sameOutput_raise _ _ _ s
      · exact sameOutput_writeReg _ v s

/-- Whatever HOST_BUS issues leaves the output port alone. -/
theorem exec_bus_sameOutput {b : BusOp} {s t : State} (h : exec (decode (.bus b)) s = .next t) :
    SameOutput s t := by
  cases b with
  | command w =>
    rw [decode, exec_cmdRow] at h
    cases h
    exact sameOutput_runCommand w s
  | access w =>
    rw [decode] at h
    cases hacc : accessOf w with
    | rd =>
      rw [hacc, exec_decodeAccess_read] at h
      cases h
      exact sameOutput_busRead _ s
    | wr st v =>
      rw [hacc, exec_decodeAccess_write] at h
      cases h
      exact sameOutput_busWrite _ st v s

/-! ## The two stream operations -/

theorem outputFrames_of_full {s : State} (h : s.out.full = true) :
    outputFrames s = s.taken ++ [outFrame s.out] := by
  rw [outputFrames, if_pos h]

theorem outputFrames_of_empty {s : State} (h : s.out.full = false) : outputFrames s = s.taken := by
  rw [outputFrames, h, if_neg Bool.false_ne_true, List.append_nil]

/-- An accepted frame fills the free output register, behind the frames delivered before. -/
theorem outputFrames_acceptFrame (last : Bool) (d1 d0 : F32) {s : State} (h : s.out.full = false) :
    ∃ y1 y0 : F32, outputFrames (acceptFrame last d1 d0 s) =
      outputFrames s ++ [BitVec.ofBool last ++ y1 ++ y0] := by
  have htaken : (acceptFrame last d1 d0 s).taken = s.taken := (sameOutput_applyStep s).taken
  rw [outputFrames_of_full rfl, outputFrames_of_empty h, htaken]
  exact ⟨_, _, rfl⟩

/-- TAKE moves the frame waiting behind those delivered, where it already stood in the order. -/
theorem outputFrames_take {s t : State} (h : exec .take s = .next t) : outputFrames t = outputFrames s := by
  cases hf : s.out.full with
  | false =>
    rw [exec_take_of_empty hf] at h
    cases h
    rfl
  | true =>
    simp only [exec, execTake, if_pos hf] at h
    cases h
    rw [outputFrames_of_full hf, outputFrames_of_empty rfl]

/-- FRAME adds one frame where the input port is ready, and else changes nothing. -/
theorem outputFrames_frame {last : Bool} {d1 d0 : F32} {s t : State}
    (h : exec (.frame last d1 d0) s = .next t) :
    (s.ctrl.run = true ∧ s.out.full = false ∧ ∃ y1 y0 : F32,
      outputFrames t = outputFrames s ++ [BitVec.ofBool last ++ y1 ++ y0]) ∨
    ((s.ctrl.run = false ∨ s.out.full = true) ∧ outputFrames t = outputFrames s) := by
  simp only [exec, execFrame] at h
  cases h
  split
  next hr =>
    obtain ⟨hrun, hfull⟩ := (sReady_iff s).mp hr
    exact .inl ⟨hrun, hfull, outputFrames_acceptFrame last d1 d0 hfull⟩
  next hr =>
    refine .inr ⟨?_, rfl⟩
    rw [sReady_iff, not_and_or, Bool.not_eq_true, Bool.not_eq_false] at hr
    exact hr

/-! ## Any operation -/

/-- An operation that is neither FRAME nor TAKE leaves the output port alone: a row of the bus does what its rule
does, and an internal step changes the handshake or a channel. -/
theorem exec_sameOutput {i : Instr} {s t : State} (hframe : ∀ last d1 d0, i ≠ .frame last d1 d0)
    (htake : i ≠ .take) (h : exec i s = .next t) : SameOutput s t := by
  cases i with
  | frame last d1 d0 => exact absurd rfl (hframe last d1 d0)
  | take => exact absurd rfl htake
  | nop | clearState | ingest | syncW2R | syncR2W =>
    cases h
    exact ⟨rfl, rfl⟩
  | commit =>
    cases h
    exact sameOutput_doCommit s
  | prepare =>
    cases h
    exact sameOutput_doPrepare s
  | setFftOrder ord =>
    cases h
    exact sameOutput_doSetFftOrder ord s
  | pullFrame c =>
    cases h
    exact sameOutput_doPullFrame c s
  | pullLatest c =>
    cases h
    exact sameOutput_doPullLatest c s
  | cmdReserved =>
    cases h
    exact sameOutput_raise _ _ _ s
  | busReadChecks a =>
    cases h
    exact sameOutput_busRead a s
  | busWriteChecks a st v =>
    cases h
    exact sameOutput_busWrite a st v s
  | busUnmapped acc a =>
    cases acc with
    | rd =>
      cases h
      exact sameOutput_raise _ _ _ s
    | wr st v =>
      cases h
      exact sameOutput_strobed (sameOutput_raise _ _ _ s)
  | rdId | rdParams | rdCtrl | rdChainCfg | rdStatus | rdCmd | rdCmdResult | rdFftCfg | rdAccLen | rdAccLenLive
  | rdSilenceFloor | rdErrInfo | rdFifoaLevel | rdFifobLevel | rdFifoaPtr | rdFifobPtr | rdOutbufInfo | rdHistCnt
  | rdCoefS07 | rdCoefS8 | rdOutbuf0 | rdOutbuf1 =>
    cases h
    exact ⟨rfl, rfl⟩
  | rdChainLive | rdCoefLiveS07 | rdCoefLiveS8 =>
    cases h
    exact sameOutput_respondLive _ s
  | wrId | wrParams | wrChainLive | wrCmdResult | wrFftCfg | wrAccLenLive | wrErrInfo | wrFifoaLevel | wrFifobLevel
  | wrFifoaPtr | wrFifobPtr | wrOutbufInfo | wrHistCnt | wrCoefLiveS07 | wrCoefLiveS8 | wrOutbuf0 | wrOutbuf1 =>
    cases h
    exact sameOutput_refuseReadOnly _ _ _ s
  | wrCtrl | wrStatus =>
    cases h
    exact sameOutput_strobed ⟨rfl, rfl⟩
  | wrCmd st v =>
    cases h
    exact sameOutput_strobed (sameOutput_runCommand v s)
  | wrChainCfg | wrCoefS07 | wrCoefS8 =>
    cases h
    exact sameOutput_strobed (sameOutput_writeShadow _ _ _ s)
  | wrAccLen st v =>
    cases h
    exact sameOutput_strobed (sameOutput_writeAccLen v s)
  | wrSilenceFloor st v =>
    cases h
    exact sameOutput_strobed (sameOutput_writeSilenceFloor v s)
  | apply =>
    cases h
    exact sameOutput_applyStep s
  | syncAck =>
    simp only [exec, execSyncAck] at h
    cases h
    split <;> exact ⟨rfl, rfl⟩
  | fftStep c =>
    simp only [exec, execFftStep] at h
    cases h
    split <;> exact ⟨rfl, rfl⟩

/-- An operation adds one output frame, at the end, exactly when it is a FRAME that is accepted. -/
theorem exec_outputFrames {i : Instr} {s t : State} (h : exec i s = .next t) :
    (∃ (last : Bool) (d1 d0 y1 y0 : F32), i = .frame last d1 d0 ∧ s.ctrl.run = true ∧ s.out.full = false ∧
      outputFrames t = outputFrames s ++ [BitVec.ofBool last ++ y1 ++ y0]) ∨
    ((∀ last d1 d0, i = .frame last d1 d0 → s.ctrl.run = false ∨ s.out.full = true) ∧
      outputFrames t = outputFrames s) := by
  by_cases hframe : ∃ last d1 d0, i = .frame last d1 d0
  · obtain ⟨last, d1, d0, rfl⟩ := hframe
    rcases outputFrames_frame h with ⟨hrun, hfull, y1, y0, e⟩ | ⟨hwait, e⟩
    · exact .inl ⟨last, d1, d0, y1, y0, rfl, hrun, hfull, e⟩
    · exact .inr ⟨fun _ _ _ _ => hwait, e⟩
  · have hframe : ∀ last d1 d0, i ≠ .frame last d1 d0 := fun last d1 d0 e => hframe ⟨last, d1, d0, e⟩
    refine .inr ⟨fun last d1 d0 e => absurd e (hframe last d1 d0), ?_⟩
    by_cases htake : i = .take
    · subst htake
      exact outputFrames_take h
    · exact (exec_sameOutput hframe htake h).outputFrames

/-! ## Steps -/

/-- A step is the move of the first listed turn, or of the free choice, on a state that differs in the turns and
the count of free values. -/
theorem step_eq_runTurn (s : State) : ∃ ts n,
    step s = runTurn (s.turns.head?.getD (Config.freeTurn s.free)) { s with turns := ts, free := n } := by
  cases h : s.turns with
  | nil => exact ⟨s.turns, s.free + 1, step_of_no_turns h⟩
  | cons a ts => exact ⟨ts, s.free, step_of_turns h⟩

/-- AUDIO_SRC adds its first frame where the input port is ready. -/
theorem runTurn_audioSrc_accepts {s t : State} {f : FrameBits} {q : List FrameBits} (h : runTurn .audioSrc s = .next t)
    (hq : s.srcQ = f :: q) (hrun : s.ctrl.run = true) (hfull : s.out.full = false) :
    ∃ y1 y0 : F32, outputFrames t = outputFrames s ++ [BitVec.ofBool (f.getLsbD 64) ++ y1 ++ y0] := by
  rw [runTurn_audioSrc hq] at h
  rcases outputFrames_frame h with ⟨-, -, hadd⟩ | ⟨hwait, -⟩
  · exact hadd
  · simp [hrun, hfull] at hwait

/-- AUDIO_SRC without a frame, or with the input port not ready, adds none. -/
theorem runTurn_audioSrc_waits {s t : State} (h : runTurn .audioSrc s = .next t)
    (hno : ¬ (s.srcQ ≠ [] ∧ s.ctrl.run = true ∧ s.out.full = false)) : outputFrames t = outputFrames s := by
  cases hq : s.srcQ with
  | nil =>
    rw [runTurn_audioSrc_idle hq] at h
    cases h
    rfl
  | cons f q =>
    rw [runTurn_audioSrc hq] at h
    rcases outputFrames_frame h with ⟨hrun, hfull, -⟩ | ⟨-, e⟩
    · exact absurd ⟨by simp [hq], hrun, hfull⟩ hno
    · exact e

/-- The reset event keeps the frames delivered and empties the output register. -/
theorem runTurn_reset_outputFrames {s t : State} (h : runTurn .reset s = .next t) : outputFrames t = s.taken := by
  rw [runTurn_of_no_fetch rfl] at h
  cases h
  exact outputFrames_of_empty rfl

/-- Every other agent leaves the output frames as they are. -/
theorem runTurn_other_outputFrames {turn : Config.Turn} {s t : State} (hsrc : turn ≠ .audioSrc)
    (hreset : turn ≠ .reset) (h : runTurn turn s = .next t) : outputFrames t = outputFrames s := by
  cases turn with
  | audioSrc => exact absurd rfl hsrc
  | reset => exact absurd rfl hreset
  | hostBus =>
    cases hq : s.busQ with
    | nil =>
      rw [runTurn_hostBus_idle hq] at h
      cases h
      rfl
    | cons b q =>
      rw [runTurn_hostBus hq] at h
      exact (exec_bus_sameOutput h).outputFrames
  | audioSink => exact outputFrames_take ((runTurn_of_fetch rfl).symm.trans h)
  | audio | syncAck | syncW2R | syncR2W | fft =>
    exact (exec_sameOutput (by nofun) (by nofun) ((runTurn_of_fetch rfl).symm.trans h)).outputFrames

/-- Settles O40: the frames delivered and the frame waiting are one queue, which only FRAME lengthens and only the
reset event shortens. -/
theorem outputFramesAreLostOnlyByReset : Obligations.OutputFramesAreLostOnlyByReset := by
  refine ⟨fun i s t h => exec_outputFrames h, fun s t h => ?_⟩
  obtain ⟨ts, n, hstep⟩ := step_eq_runTurn s
  rw [hstep] at h
  refine ⟨fun hturn => ?reset, fun ⟨hturn, hne, hrun, hfull⟩ => ?accepts, fun hreset hno => ?other⟩
  case reset =>
    rw [hturn] at h
    exact (runTurn_reset_outputFrames h :)
  case accepts =>
    rw [hturn] at h
    obtain ⟨f, q, hq⟩ := List.exists_cons_of_ne_nil hne
    obtain ⟨y1, y0, e⟩ := runTurn_audioSrc_accepts h hq hrun hfull
    exact ⟨f, y1, y0, by rw [hq, List.head?_cons], e⟩
  case other =>
    by_cases hsrc : s.turns.head?.getD (Config.freeTurn s.free) = .audioSrc
    · rw [hsrc] at h
      exact (runTurn_audioSrc_waits h fun hacc => hno ⟨hsrc, hacc⟩ :)
    · exact (runTurn_other_outputFrames hsrc hreset h :)

end Sys2Proof.Machine
end

section
/-!
PROOF. Accesses to any mapped register: the refusal of a partial write, and what a read leaves unchanged
(20_memory R104 to R106, 60_exceptions R443).
-/

namespace Sys2Proof.Machine

open Sys2Proof.Safety

/-! ## Refusals of class BUS -/

/-- CMD_RESULT reports errors of class CFG only. -/
theorem not_cmdRefusal_of_bus {c : ErrCode} (h : errIsBus c = true) : errIsCmdRefusal c = false := by
  cases c with
  | misaligned | partialWrite | unmapped | readOnly => rfl
  | illegalCmd | precondition | badValue | shadowLocked => cases h

/-- What raising an error of class BUS leaves. -/
theorem raise_of_bus {c : ErrCode} (h : errIsBus c = true) (acc : Access) (a : Addr) (s : State) :
    raise acc c a s = busErrorState (errNum c) a (errData acc) s := by
  rw [raise, stickyBus_of_bus h, stickyCfg_of_bus h, resAfter_of_not_refusal (not_cmdRefusal_of_bus h)]
  rfl

/-- Settles O19: the strobe check stands before the write rule of every register. -/
theorem partialWritesAreRefused : Obligations.PartialWritesAreRefused := by
  intro r st v s hst
  rw [exec_writeRow, strobed_partial hst, raise_of_bus rfl]
  rfl

/-! ## Reads -/

/-- A read changes the response, and at most the count of free values beside it. -/
theorem readReg_frame (r : Reg) (s : State) :
    ∃ v n, readReg r s = { s with resp := some ⟨false, some v⟩, free := n } := by
  have live (v : Word) : ∃ v' n, respondLive v s = { s with resp := some ⟨false, some v'⟩, free := n } := by
    rcases respondLive_cases v s with ⟨-, e⟩ | ⟨-, e⟩
    · exact ⟨_, s.free, e⟩
    · exact ⟨_, _, e⟩
  cases r with
  | chainLive | coefLive => exact live _
  | _ => exact ⟨_, s.free, rfl⟩

/-- Apart from a live read-back while a commit is pending, a read answers with a value that does not depend on the
response before it. -/
theorem readReg_repeats {r : Reg} {s : State}
    (h : s.pendC = false ∨ (r ≠ .chainLive ∧ ∀ i k, r ≠ .coefLive i k)) :
    ∃ v, readReg r s = respond v s ∧ ∀ x, readReg r { s with resp := x } = respond v s := by
  have live (hp : s.pendC = false) (v : Word) : respondLive v s = respond v s ∧
      ∀ x, respondLive v { s with resp := x } = respond v s :=
    ⟨respondLive_of_not_pending hp v, fun x => respondLive_of_not_pending (s := { s with resp := x }) hp v⟩
  cases r with
  | chainLive => exact ⟨_, live (h.resolve_right fun ⟨hcfg, _⟩ => hcfg rfl) _⟩
  | coefLive i k => exact ⟨_, live (h.resolve_right fun ⟨_, hcoef⟩ => hcoef i k rfl) _⟩
  | _ => exact ⟨_, rfl, fun _ => rfl⟩

/-- Settles O26: the value read does not depend on the last response, so the second read finds the state of the
first. -/
theorem readsHaveNoSideEffects : Obligations.ReadsHaveNoSideEffects := by
  intro r s
  by_cases hsafe : s.pendC = false ∨ (r ≠ .chainLive ∧ ∀ i k, r ≠ .coefLive i k)
  · obtain ⟨v, hfirst, hagain⟩ := readReg_repeats hsafe
    refine ⟨v, s.free, exec_readRow_of_respond hfirst, fun _ => ⟨rfl, ?_⟩⟩
    rw [exec_readRow, hagain]
    rfl
  · obtain ⟨v, n, e⟩ := readReg_frame r s
    exact ⟨v, n, by rw [exec_readRow, e], fun h => absurd h hsafe⟩

end Sys2Proof.Machine
end

section
/-!
PROOF. The FIFOs as bounded queues, and the round trip of snapshots through them (20_memory R114, 41_fifo R274,
R275, R287).
-/

namespace Sys2Proof.Machine

open Sys2Proof.Safety

/-! ## Levels as lengths -/

@[simp] theorem contentsA_length (f : FifoA) : (contentsA f).length = trueLevelA f := by
  simp [contentsA]

@[simp] theorem contentsB_length (f : FifoB) : (contentsB f).length = levelB f := by
  simp [contentsB]

theorem slotsFrom_succ {α : Type} (slot : Vector α 32) (rd : Ptr) (n : Nat) :
    slotsFrom slot rd (n + 1) = slot[slotIx rd] :: (slotsFrom slot rd (n + 1)).drop 1 := by
  simp [slotsFrom, List.range_succ_eq_map]

/-- A FIFO with an unread snapshot holds the one at the read pointer, and behind it those left by a pull. -/
theorem contentsA_eq_cons {f : FifoA} (h : 0 < trueLevelA f) :
    contentsA f = f.slot[slotIx f.rd] :: contentsA { f with rd := f.rd + 1 } := by
  obtain ⟨n, hn⟩ := Nat.exists_eq_succ_of_ne_zero h.ne'
  rw [contentsA_rd_succ h, contentsA_eq, hn]
  exact slotsFrom_succ f.slot f.rd n

theorem contentsB_eq_cons {f : FifoB} (h : 0 < levelB f) :
    contentsB f = f.slot[slotIx f.rd] :: contentsB { f with rd := f.rd + 1 } := by
  obtain ⟨n, hn⟩ := Nat.exists_eq_succ_of_ne_zero h.ne'
  have hdrop : contentsB { f with rd := f.rd + 1 } = (contentsB f).drop 1 := contentsB_rd_add (n := 1) h
  rw [hdrop, contentsB_eq, hn]
  exact slotsFrom_succ f.slot f.rd n

/-! ## A push and a pull, as operations on the queue -/

theorem pushA_of_full {f : FifoA} (h : 30 ≤ levelW f) (v : List F32) : pushA f v = (false, f) := by
  rcases pushA_cases f v with ⟨-, e⟩ | ⟨hl, -⟩
  · exact e
  · omega

theorem pushB_of_full {f : FifoB} (h : 30 ≤ levelB f) (v : Spectrum) : pushB f v = (false, f) := by
  rcases pushB_cases f v with ⟨-, e⟩ | ⟨hl, -⟩
  · exact e
  · omega

theorem pushA_appends {f : FifoA} (hle : trueLevelA f ≤ levelW f) (h : levelW f < 30) (v : List F32) :
    ∃ f', pushA f v = (true, f') ∧ contentsA f' = contentsA f ++ [v] := by
  rcases pushA_cases f v with ⟨hl, -⟩ | ⟨-, e⟩
  · omega
  · exact ⟨_, e, contentsA_wr_succ (by omega) v⟩

theorem pushB_appends {f : FifoB} (h : levelB f < 30) (v : Spectrum) :
    ∃ f', pushB f v = (true, f') ∧ contentsB f' = contentsB f ++ [v] := by
  rcases pushB_cases f v with ⟨hl, -⟩ | ⟨-, e⟩
  · omega
  · exact ⟨_, e, contentsB_wr_succ (by omega) v⟩

theorem pullA_of_empty {f : FifoA} (h : levelR f = 0) : pullA f = none := by
  rcases pullA_cases f with ⟨-, e⟩ | ⟨hl, -⟩
  · exact e
  · omega

theorem pullB_of_empty {f : FifoB} (h : contentsB f = []) : pullB f = none := by
  rcases pullB_cases f with ⟨-, e⟩ | ⟨hl, -⟩
  · exact e
  · rw [contentsB_eq_cons hl] at h
    cases h

/-- A pull where the consumer sees a snapshot removes and returns the oldest. -/
theorem pullA_removes {f : FifoA} (hle : levelR f ≤ trueLevelA f) (h : 0 < levelR f) :
    ∃ u us f', contentsA f = u :: us ∧ pullA f = some (u, f') ∧ contentsA f' = us := by
  rcases pullA_cases f with ⟨hl, -⟩ | ⟨-, e⟩
  · omega
  · exact ⟨_, _, _, contentsA_eq_cons (by omega), e, rfl⟩

theorem pullB_removes {f : FifoB} {u : Spectrum} {us : List Spectrum} (h : contentsB f = u :: us) :
    ∃ f', pullB f = some (u, f') ∧ contentsB f' = us := by
  rcases pullB_cases f with ⟨hl, -⟩ | ⟨hl, e⟩
  · rw [← contentsB_length, h] at hl
    cases hl
  · rw [contentsB_eq_cons hl] at h
    cases h
    exact ⟨_, e, rfl⟩

/-- Settles O43: for FIFO-A the order of the views (41_fifo R286) carries what a side sees over to the contents. -/
theorem fifosAreBoundedQueues : Obligations.FifosAreBoundedQueues := by
  refine ⟨fun f v _ => ⟨fun h => ?_, fun h => ?_, pullB_of_empty, fun _ _ => pullB_removes⟩,
    fun f v ⟨hr, hw, _⟩ => ⟨fun h => pushA_of_full h.ge v, fun h => pushA_appends hw h v, pullA_of_empty,
      pullA_removes hr⟩⟩
  · rw [contentsB_length] at h
    exact pushB_of_full h.ge v
  · rw [contentsB_length] at h
    exact pushB_appends h v

/-! ## Round trips -/

/-- A run of pushes that fits appends all its snapshots in order. -/
theorem contentsB_pushAllB {vs : List Spectrum} {f : FifoB} (h : levelB f + vs.length ≤ 30) :
    contentsB (pushAllB vs f) = contentsB f ++ vs := by
  induction vs generalizing f with
  | nil => simp [pushAllB]
  | cons v vs ih =>
    rw [List.length_cons] at h
    obtain ⟨f', hpush, hf'⟩ := pushB_appends (f := f) (by omega) v
    have hlevel : levelB f' = levelB f + 1 := by
      rw [← contentsB_length, hf', List.length_append, contentsB_length, List.length_singleton]
    rw [pushAllB, hpush, ih (f := f') (by omega), hf', List.append_assoc, List.singleton_append]

/-- The same with the synchronisers settled before and after each push; the run leaves them settled. -/
theorem pushAllA_settle {vs : List (List F32)} {f : FifoA} (h : trueLevelA f + vs.length ≤ 30) :
    ∃ g, pushAllA vs (settle f) = settle g ∧ contentsA g = contentsA f ++ vs := by
  induction vs generalizing f with
  | nil => exact ⟨f, rfl, by simp⟩
  | cons v vs ih =>
    rw [List.length_cons] at h
    obtain ⟨f', hpush, hf'⟩ := pushA_appends (f := settle f) (by simp) (by rw [levelW_settle]; omega) v
    rw [contentsA_settle] at hf'
    have hlevel : trueLevelA f' = trueLevelA f + 1 := by
      rw [← contentsA_length, hf', List.length_append, contentsA_length, List.length_singleton]
    obtain ⟨g, hg, hcontents⟩ := ih (f := f') (by omega)
    refine ⟨g, by rw [pushAllA, hpush, hg], ?_⟩
    rw [hcontents, hf', List.append_assoc, List.singleton_append]

/-- Pulling once more than there are unread snapshots returns them oldest first, and then none. -/
theorem pullAllB_of_contents {us : List Spectrum} {f : FifoB} (h : contentsB f = us) :
    (pullAllB (us.length + 1) f).1 = us.map some ++ [none] := by
  induction us generalizing f with
  | nil => simp [pullAllB, pullB_of_empty h]
  | cons u us ih =>
    obtain ⟨f', hpull, hf'⟩ := pullB_removes h
    rw [List.length_cons, pullAllB, hpull]
    simp [ih hf']

theorem pullAllA_of_contents {us : List (List F32)} {f : FifoA} (h : contentsA f = us) :
    (pullAllA (us.length + 1) (settle f)).1 = us.map some ++ [none] := by
  have hlevel : levelR (settle f) = us.length := by rw [levelR_settle, ← contentsA_length, h]
  induction us generalizing f with
  | nil => simp [pullAllA, pullA_of_empty hlevel]
  | cons u us ih =>
    obtain ⟨u', us', f', hcontents, hpull, hf'⟩ := pullA_removes (f := settle f) (by simp) (by simp [hlevel])
    rw [contentsA_settle, h] at hcontents
    cases hcontents
    have hlevel' : levelR (settle f') = us.length := by rw [levelR_settle, ← contentsA_length, hf']
    rw [List.length_cons, pullAllA, hpull]
    simp [ih hf' hlevel']

/-- Settles O44: pushes append and pulls remove, and settled synchronisers show both sides of FIFO-A its true
occupancy. -/
theorem fifoRoundTrip : Obligations.FifoRoundTrip := by
  refine ⟨fun vs f hempty hlen => ?_, fun vs f hempty hlen => ?_, fun v f h => ?_, fun v f h => ?_⟩
  · have hlevel : levelB f = 0 := by simp [levelB, hempty]
    have hnil : contentsB f = [] := List.eq_nil_of_length_eq_zero (by rw [contentsB_length, hlevel])
    apply pullAllB_of_contents
    rw [contentsB_pushAllB (by omega), hnil, List.nil_append]
  · have hlevel : trueLevelA f = 0 := by simp [trueLevelA, hempty]
    have hnil : contentsA f = [] := List.eq_nil_of_length_eq_zero (by rw [contentsA_length, hlevel])
    obtain ⟨g, hpush, hg⟩ := pushAllA_settle (vs := vs) (f := f) (by omega)
    rw [hpush]
    exact pullAllA_of_contents (by rw [hg, hnil, List.nil_append])
  · rw [contentsB_length] at h
    exact pushB_of_full h.ge v
  · rw [contentsA_length, ← levelW_settle] at h
    exact pushA_of_full h.ge v

end Sys2Proof.Machine
end

section
/-!
PROOF. The decoder and the encoder of the four formats, each the other's inverse (30_encoding R140 to R148,
44_control R390, R391, R406, R407).
-/

namespace Sys2Proof.Machine

open Sys2Proof.Safety

/-! ## The row of a bus access

An address is misaligned, a register's, or neither, and its row follows from that. -/

/-- The row of an access to a misaligned address. -/
def checksRow : Access → Addr → Instr
  | .rd, a => .busReadChecks a
  | .wr st v, a => .busWriteChecks a st v

/-- The row of an access to a register. -/
def registerRow : Access → Reg → Instr
  | .rd, r => readRow r
  | .wr st v, r => writeRow st v r

theorem address_cases (a : Addr) :
    misaligned a = true ∨ Instr.unmappedAddr a = true ∨ ∃ r, regAddr r = a := by
  cases hm : misaligned a with
  | true => exact .inl rfl
  | false =>
    cases hr : regAt a with
    | none => exact .inr (.inl (by simp [Instr.unmappedAddr, hm, hr]))
    | some r => exact .inr (.inr ⟨r, regAddr_of_regAt hr⟩)

theorem decodeAccess_of_misaligned {a : Addr} (h : misaligned a = true) (acc : Access) :
    decodeAccess acc a = checksRow acc a := by
  cases acc <;> simp [decodeAccess, checksRow, h]

theorem decodeAccess_of_unmapped {a : Addr} (h : Instr.unmappedAddr a = true) (acc : Access) :
    decodeAccess acc a = .busUnmapped acc a := by
  obtain ⟨hm, hr⟩ : misaligned a = false ∧ regAt a = none := by simpa [Instr.unmappedAddr] using h
  simp [decodeAccess, hm, hr]

theorem decodeAccess_regAddr (acc : Access) (r : Reg) : decodeAccess acc (regAddr r) = registerRow acc r := by
  cases acc <;> simp [decodeAccess, registerRow]

/-! ## Sections 0 to 7, whose rows hold the section in three bits -/

theorem secOf07_ne_eight (i : BitVec 3) : (secOf07 i).val ≠ 8 := by
  have := i.isLt
  simp only [secOf07]
  omega

theorem ofNat_secOf07 (i : BitVec 3) : BitVec.ofNat 3 (secOf07 i).val = i := by
  simp [secOf07]

theorem readRow_secOf07 (i : BitVec 3) (k : Tap) :
    readRow (.coef (secOf07 i) k) = .rdCoefS07 i k ∧ readRow (.coefLive (secOf07 i) k) = .rdCoefLiveS07 i k := by
  simp [readRow, secOf07_ne_eight, ofNat_secOf07]

theorem writeRow_secOf07 (i : BitVec 3) (k : Tap) (st : Strobes) (v : Word) :
    writeRow st v (.coef (secOf07 i) k) = .wrCoefS07 i k st v ∧
    writeRow st v (.coefLive (secOf07 i) k) = .wrCoefLiveS07 i k st v := by
  simp [writeRow, secOf07_ne_eight, ofNat_secOf07]

/-! ## A bus access there and back -/

theorem decode_encodeAccess (acc : Access) (a : Addr) : decode (encodeAccess acc a) = decodeAccess acc a := by
  cases acc <;> simp [encodeAccess, decode, accessOf]

theorem decode_encodeRead (r : Reg) : decode (encodeRead r) = readRow r :=
  (decode_encodeAccess _ _).trans (decodeAccess_regAddr .rd r)

theorem decode_encodeWrite (r : Reg) (st : Strobes) (v : Word) : decode (encodeWrite r st v) = writeRow st v r :=
  (decode_encodeAccess _ _).trans (decodeAccess_regAddr (.wr st v) r)

theorem encode_readRow (r : Reg) : encode (readRow r) = some (encodeRead r) := by
  cases r with
  | coef i k | coefLive i k =>
    rw [readRow]
    split
    next h =>
      obtain rfl : i = 8 := Fin.ext h
      rfl
    next h => rw [encode, secOf07_ofNat h]
  | outbuf c j => cases c <;> rfl
  | _ => rfl

theorem encode_writeRow (st : Strobes) (v : Word) (r : Reg) :
    encode (writeRow st v r) = some (encodeWrite r st v) := by
  cases r with
  | coef i k | coefLive i k =>
    rw [writeRow]
    split
    next h =>
      obtain rfl : i = 8 := Fin.ext h
      rfl
    next h => rw [encode, secOf07_ofNat h]
  | outbuf c j => cases c <;> rfl
  | _ => rfl

/-- Decoding an access loses none of its fields. -/
theorem encode_decodeAccess (acc : Access) (a : Addr) : encode (decodeAccess acc a) = some (encodeAccess acc a) := by
  rcases address_cases a with h | h | ⟨r, rfl⟩
  · rw [decodeAccess_of_misaligned h]
    cases acc <;> rfl
  · rw [decodeAccess_of_unmapped h]
    rfl
  · rw [decodeAccess_regAddr]
    cases acc with
    | rd => exact encode_readRow r
    | wr st v => exact encode_writeRow st v r

theorem wf_readRow (r : Reg) : (readRow r).wf = true := by
  cases r with
  | coef i k | coefLive i k =>
    rw [readRow]
    split <;> rfl
  | outbuf c j => cases c <;> rfl
  | _ => rfl

theorem wf_writeRow (st : Strobes) (v : Word) (r : Reg) : (writeRow st v r).wf = true := by
  cases r with
  | coef i k | coefLive i k =>
    rw [writeRow]
    split <;> rfl
  | outbuf c j => cases c <;> rfl
  | _ => rfl

theorem wf_decodeAccess (acc : Access) (a : Addr) : (decodeAccess acc a).wf = true := by
  rcases address_cases a with h | h | ⟨r, rfl⟩
  · rw [decodeAccess_of_misaligned h]
    cases acc <;> exact h
  · rw [decodeAccess_of_unmapped h]
    exact h
  · rw [decodeAccess_regAddr]
    cases acc with
    | rd => exact wf_readRow r
    | wr st v => exact wf_writeRow st v r

/-! ## Command words -/

/-- The words of the command map with every must-be-0 bit clear (30_encoding R145, R146). -/
def LegalCmdWord (w : Word) : Prop :=
  (w.toNat / 2 ^ 24 ≤ 3 ∧ w.toNat % 2 ^ 24 = 0) ∨
  (w.toNat / 2 ^ 24 = 4 ∧ w.toNat % 2 ^ 24 < 16) ∨
  ((w.toNat / 2 ^ 24 = 5 ∨ w.toNat / 2 ^ 24 = 6) ∧ w.toNat % 2 ^ 24 < 2)

theorem cmdOpc_eq_iff (w : Word) (opc : BitVec 8) : cmdOpc w = opc ↔ w.toNat / 2 ^ 24 = opc.toNat := by
  rw [← BitVec.toNat_inj, cmdOpc, BitVec.extractLsb'_toNat, Nat.shiftRight_eq_div_pow,
    Nat.mod_eq_of_lt (by have := w.isLt; omega)]

/-- The bits of the argument from `lo` up are clear. -/
theorem argHigh_eq_zero_iff (w : Word) {lo len : Nat} (h : lo + len = 24) :
    w.extractLsb' lo len = 0#len ↔ w.toNat % 2 ^ 24 < 2 ^ lo := by
  rw [← BitVec.toNat_inj, BitVec.extractLsb'_toNat, BitVec.toNat_zero, Nat.shiftRight_eq_div_pow,
    ← Nat.mod_mul_right_div_self, ← Nat.pow_add, h, Nat.div_eq_zero_iff_lt (Nat.two_pow_pos lo)]

/-- The command map refuses exactly what it does not list. -/
theorem decodeCmd_eq_reserved_iff (w : Word) : decodeCmd w = .reserved w ↔ ¬ LegalCmdWord w := by
  simp only [decodeCmd, LegalCmdWord, cmdOpc_eq_iff, argHigh_eq_zero_iff w (show 0 + 24 = 24 from rfl),
    argHigh_eq_zero_iff w (show 4 + 20 = 24 from rfl), argHigh_eq_zero_iff w (show 1 + 23 = 24 from rfl),
    BitVec.toNat_ofNat]
  split_ifs <;> simp only [false_iff, true_iff] <;> omega

/-- CMD_RESERVED keeps the whole word. -/
theorem eq_of_decodeCmd_reserved {w w' : Word} (h : decodeCmd w = .reserved w') : w' = w := by
  unfold decodeCmd at h
  split_ifs at h
  exact (Cmd.reserved.inj h).symm

theorem cmdRow_eq_reserved_iff (c : Cmd) (w : Word) : cmdRow c = .cmdReserved w ↔ c = .reserved w := by
  cases c <;> simp [cmdRow]

theorem wf_cmdRow_decodeCmd (w : Word) : (cmdRow (decodeCmd w)).wf = true := by
  cases h : decodeCmd w with
  | reserved w' =>
    obtain rfl := eq_of_decodeCmd_reserved h
    simp [cmdRow, Instr.wf, h]
  | nop | commit | prepare | clearState | setFftOrder ord | pullFrame c | pullLatest c => rfl

theorem encode_cmdRow_isSome (c : Cmd) : (encode (cmdRow c)).isSome = true := by
  cases c <;> rfl

theorem decode_setFftOrder (ord : BitVec 4) : decode (encodeCmd 0x04#8 (0#20 ++ ord)) = .setFftOrder ord := by
  revert ord
  decide

theorem decode_frameBits (last : Bool) (d1 d0 : F32) :
    decode (.streamIn (frameBits last d1 d0)) = .frame last d1 d0 := by
  rw [decode, decodeFrame, frameBits_last, frameBits_d1, frameBits_d0]

/-! ## The statements -/

/-- Settles O1: by the rows; a register's rows go through its address, and the overlapping rows and CMD_RESERVED
hold only what `Instr.wf` leaves them. -/
theorem encodedInstructionsDecodeBack : Obligations.EncodedInstructionsDecodeBack := by
  intro i t hwf ht
  cases i with
  | ingest | apply | syncAck | syncW2R | syncR2W | fftStep => cases ht
  | nop | commit | prepare | clearState =>
    cases ht
    decide
  | setFftOrder ord =>
    cases ht
    exact decode_setFftOrder ord
  | pullFrame c | pullLatest c =>
    cases ht
    cases c <;> decide
  | cmdReserved w =>
    cases ht
    exact (cmdRow_eq_reserved_iff _ w).mpr (eq_of_beq hwf)
  | busReadChecks a | busWriteChecks a st v =>
    cases ht
    exact (decode_encodeAccess _ a).trans (decodeAccess_of_misaligned hwf _)
  | busUnmapped acc a =>
    cases ht
    exact (decode_encodeAccess acc a).trans (decodeAccess_of_unmapped hwf acc)
  | frame last d1 d0 =>
    cases ht
    exact decode_frameBits last d1 d0
  | take =>
    cases ht
    rfl
  | rdCoefS07 i k =>
    cases ht
    exact (decode_encodeRead _).trans (readRow_secOf07 i k).1
  | rdCoefLiveS07 i k =>
    cases ht
    exact (decode_encodeRead _).trans (readRow_secOf07 i k).2
  | wrCoefS07 i k st v =>
    cases ht
    exact (decode_encodeWrite _ st v).trans (writeRow_secOf07 i k st v).1
  | wrCoefLiveS07 i k st v =>
    cases ht
    exact (decode_encodeWrite _ st v).trans (writeRow_secOf07 i k st v).2
  | rdId | rdParams | rdCtrl | rdChainCfg | rdChainLive | rdStatus | rdCmd | rdCmdResult | rdFftCfg | rdAccLen
  | rdAccLenLive | rdSilenceFloor | rdErrInfo | rdFifoaLevel | rdFifobLevel | rdFifoaPtr | rdFifobPtr | rdOutbufInfo
  | rdHistCnt | rdCoefS8 | rdCoefLiveS8 | rdOutbuf0 | rdOutbuf1 =>
    cases ht
    exact decode_encodeRead _
  | wrId | wrParams | wrCtrl | wrChainCfg | wrChainLive | wrStatus | wrCmd | wrCmdResult | wrFftCfg | wrAccLen
  | wrAccLenLive | wrSilenceFloor | wrErrInfo | wrFifoaLevel | wrFifobLevel | wrFifoaPtr | wrFifobPtr | wrOutbufInfo
  | wrHistCnt | wrCoefS8 | wrCoefLiveS8 | wrOutbuf0 | wrOutbuf1 =>
    cases ht
    exact decode_encodeWrite _ _ _

/-- Settles O2: format by format; a bus access is even the encoding of what it decodes to. -/
theorem everyTransferDecodesWellFormed : Obligations.EveryTransferDecodesWellFormed := by
  intro t
  match t with
  | .bus (.access w) => exact ⟨wf_decodeAccess _ _, by rw [decode, encode_decodeAccess]; rfl⟩
  | .bus (.command w) => exact ⟨wf_cmdRow_decodeCmd w, encode_cmdRow_isSome _⟩
  | .streamIn _ | .streamOut => exact ⟨rfl, rfl⟩

/-- What a refused command leaves (60_exceptions R443). -/
theorem refuseCmd_eq_refusedCmdState {c : ErrCode} (h : errIsCmdRefusal c = true) (w : Word) (s : State) :
    refuseCmd c w s = refusedCmdState (errNum c) (cmdOpc w) s := by
  have hcfg : errIsBus c = false := by
    cases hb : errIsBus c with
    | false => rfl
    | true => cases h.symm.trans (not_cmdRefusal_of_bus hb)
  simp [refuseCmd, raise, errAfter, resAfter, errData, refusedCmdState, cfgErrorState, stickyBus_of_cfg hcfg,
    stickyCfg_of_cfg hcfg, h]

/-- SET_FFT_ORDER of an order that is no size of the transform (43_spectrum R347). -/
theorem doSetFftOrder_of_illegal {ord : BitVec 4} {s : State} (hen : s.ctrl.fftEn = false)
    (hord : orderLegal ord = false) : doSetFftOrder ord s = refusedCmdState 7#8 0x04#8 s := by
  rw [doSetFftOrder, hen, hord, if_neg (by decide), if_neg (by decide), refuseCmd_eq_refusedCmdState rfl,
    cmdOpc_cmdWord]
  rfl

/-- Settles O3: the command map lists the legal words, and the two refusals are one rule with two codes. -/
theorem illegalCommandWordsAreRefused : Obligations.IllegalCommandWordsAreRefused := by
  refine ⟨?words, ?effect, ?orders, ?byValue⟩
  case words => exact fun w => (cmdRow_eq_reserved_iff _ w).trans (decodeCmd_eq_reserved_iff w)
  case effect => exact fun w s => congrArg Host.Outcome.next (refuseCmd_eq_refusedCmdState rfl w s)
  case orders =>
    intro ord
    have hw : 0x0400000#28 ++ ord = cmdWord 0x04#8 (0#20 ++ ord) := by
      revert ord
      decide
    rw [hw]
    exact decode_setFftOrder ord
  case byValue =>
    intro ord s hen h11 h12 h13
    have hord : orderLegal ord = false := by
      rw [Bool.eq_false_iff, ne_eq, orderLegal_iff]
      simp [h11, h12, h13]
    exact congrArg Host.Outcome.next (doSetFftOrder_of_illegal hen hord)

/-- A table word that encodes an instruction decodes to it. -/
theorem decodeTableWord_of_encode {nbits w : Nat} {i : Instr} {t : Transfer} (hwf : i.wf = true)
    (hw : tableTransfer nbits w = some t) (he : encode i = some t) : decodeTableWord nbits w = some i := by
  rw [decodeTableWord, hw, Option.map_some, encodedInstructionsDecodeBack i t hwf he]

/-- Settles O5: each word is the encoding of its operation. -/
theorem wordsOfTheTablesDecode : Obligations.WordsOfTheTablesDecode := by
  refine ⟨?_, ?_, ?_, ?_, ?_, ?_, ?_, ?_, ?_, ?_, ?_, ?_⟩ <;>
    exact decodeTableWord_of_encode (by decide) rfl (by decide)

end Sys2Proof.Machine
end

section
/-!
PROOF. The filter chain: the section step, which sections run, and the chain without a bypassed bank
(40_filter_chain R200 to R202, R213, R214, 10_state R68).
-/

namespace Sys2Proof.Machine

/-! ## One section -/

theorem section1_of_active {f : CoefFile} {i : Sec} (h : active f.cfg i = true) (p : F32 × Vector Delay 9) :
    section1 f i p = ((bq f.coef[i] p.2[i] p.1).1, p.2.set i (bq f.coef[i] p.2[i] p.1).2) := by
  rw [section1, if_pos h]

theorem section1_of_inactive {f : CoefFile} {i : Sec} (h : active f.cfg i = false) (p : F32 × Vector Delay 9) :
    section1 f i p = p := by
  rw [section1, h, if_neg Bool.false_ne_true]

/-- Settles O36: BQ and the chain are written out operation by operation, and a section runs when active. -/
theorem sectionStepIsTransposedDirectForm : Obligations.SectionStepIsTransposedDirectForm :=
  ⟨fun _ _ _ => rfl,
    fun _ _ v st => ⟨fun h => section1_of_active h (v, st), fun h => section1_of_inactive h (v, st)⟩,
    fun _ _ _ => rfl⟩

/-! ## Which sections run -/

theorem active_lowCut (cfg : ChainCfg) {i : Sec} (h : i.val < 4) :
    active cfg i = (!cfg.lcByp && decide (i.val ≤ cfg.lcSlope.toNat)) := by
  rw [active, if_pos h]

theorem active_peak (cfg : ChainCfg) : active cfg 4 = !cfg.pkByp := rfl

theorem active_highCut (cfg : ChainCfg) {i : Sec} (h : 5 ≤ i.val) :
    active cfg i = (!cfg.hcByp && decide (i.val - 5 ≤ cfg.hcSlope.toNat)) := by
  rw [active, if_neg (by omega), if_neg (by omega)]

/-! ## Runs of sections -/

theorem chainFrom_append (f : CoefFile) (l₁ l₂ : List Sec) (p : F32 × Vector Delay 9) :
    chainFrom f (l₁ ++ l₂) p = chainFrom f l₂ (chainFrom f l₁ p) := by
  induction l₁ generalizing p with
  | nil => rfl
  | cons i l₁ ih => exact ih (section1 f i p)

/-- A run of sections of which none is active passes sample and delay state as they are. -/
theorem chainFrom_of_inactive {f : CoefFile} {l : List Sec} (h : ∀ i ∈ l, active f.cfg i = false)
    (p : F32 × Vector Delay 9) : chainFrom f l p = p := by
  induction l with
  | nil => rfl
  | cons i l ih =>
    obtain ⟨hi, hl⟩ := List.forall_mem_cons.mp h
    rw [chainFrom, section1_of_inactive hi, ih hl]

theorem chainFrom_lowCut_of_bypass {f : CoefFile} (h : f.cfg.lcByp = true) (p : F32 × Vector Delay 9) :
    chainFrom f [0, 1, 2, 3] p = p := by
  refine chainFrom_of_inactive (fun i hi => ?_) p
  have hlt : i.val < 4 := by
    revert i
    decide
  rw [active_lowCut f.cfg hlt, h]
  rfl

theorem chainFrom_peak_of_bypass {f : CoefFile} (h : f.cfg.pkByp = true) (p : F32 × Vector Delay 9) :
    chainFrom f [4] p = p :=
  section1_of_inactive (by rw [active_peak, h]; rfl) p

theorem chainFrom_highCut_of_bypass {f : CoefFile} (h : f.cfg.hcByp = true) (p : F32 × Vector Delay 9) :
    chainFrom f [5, 6, 7, 8] p = p := by
  refine chainFrom_of_inactive (fun i hi => ?_) p
  have hle : 5 ≤ i.val := by
    revert i
    decide
  rw [active_highCut f.cfg hle, h]
  rfl

/-- The chain is the LowCut bank, then Peak, then the HighCut bank. -/
theorem chain_eq_banks (f : CoefFile) (st : Vector Delay 9) (x : F32) :
    chain f st x = chainFrom f [5, 6, 7, 8] (chainFrom f [4] (chainFrom f [0, 1, 2, 3] (x, st))) := by
  rw [← chainFrom_append, ← chainFrom_append]
  rfl

/-- Settles O38: the slope counts the active sections of a bank, and a bypassed bank drops out of the chain. -/
theorem slopeAndBypassSelectSections : Obligations.SlopeAndBypassSelectSections := by
  refine ⟨fun cfg i => ⟨fun h => ?_, fun h => ?_, fun h => ?_, fun h => ?_⟩, fun cfg => by simp [active_peak],
    fun f st x => ⟨fun h => ?_, fun h => ?_, fun h => ?_, fun hlc hpk hhc => ?_⟩⟩
  · simp [active_lowCut cfg (i := ⟨i.val, by omega⟩) i.isLt, h]
  · simp [active_highCut cfg (i := ⟨i.val + 5, by omega⟩) (Nat.le_add_left 5 _), h]
  · simp [active_lowCut cfg (i := ⟨i.val, by omega⟩) i.isLt, h]
  · simp [active_highCut cfg (i := ⟨i.val + 5, by omega⟩) (Nat.le_add_left 5 _), h]
  · rw [chain_eq_banks, chainFrom_lowCut_of_bypass h, ← chainFrom_append]
    rfl
  · rw [chain_eq_banks, chainFrom_peak_of_bypass h]
  · rw [chain_eq_banks, chainFrom_highCut_of_bypass h, ← chainFrom_append]
    rfl
  · rw [chain_eq_banks, chainFrom_lowCut_of_bypass hlc, chainFrom_peak_of_bypass hpk,
      chainFrom_highCut_of_bypass hhc]

end Sys2Proof.Machine
end

section
/-!
PROOF. The stream operations and the commit handshake (40_filter_chain R203 to R208).
-/

namespace Sys2Proof.Machine

/-! ## The commit handshake -/

/-- The two fields of APPLY: the live set and PEND_A (40_filter_chain R206). -/
theorem applyStep_eq (s : State) : applyStep s =
    { s with lv := if s.pendA = true ∧ s.atb = true then s.sh else s.lv, pendA := s.pendA && !s.atb } := by
  rcases applyStep_cases s with ⟨hp, ha, e⟩ | ⟨hn, e⟩ <;> rw [e]
  · simp [hp, ha]
  · have hkeep : (s.pendA && !s.atb) = s.pendA := by
      cases hp : s.pendA <;> simp_all
    rw [if_neg hn, hkeep]

theorem applyStep_of_due {s : State} (hp : s.pendA = true) (ha : s.atb = true) :
    applyStep s = { s with lv := s.sh, pendA := false } := by
  rw [applyStep, if_pos ⟨hp, ha⟩, install]

/-- A commit lands once. -/
theorem applyStep_applyStep (s : State) : applyStep (applyStep s) = applyStep s := by
  rcases applyStep_cases s with ⟨-, -, e⟩ | ⟨-, e⟩
  · rw [e]
    exact Host.Outcome.next.inj (exec_apply_of_not_due (.inl rfl))
  · rw [e, e]

/-- Settles O34: APPLY and SYNC_ACK where they are enabled. -/
theorem commitLandsAndIsAcknowledged : Obligations.CommitLandsAndIsAcknowledged := fun _ =>
  ⟨fun hp ha => congrArg Host.Outcome.next (applyStep_of_due hp ha),
    fun hc hp => congrArg Host.Outcome.next (if_pos ⟨hc, hp⟩)⟩

theorem doCommit_of_not_pending {s : State} (h : s.pendC = false) : doCommit s =
    finishCmd 1#2 0x01#8 0#8 { s with pendC := true, pendA := true } := by
  rw [doCommit, h, if_neg Bool.false_ne_true]

theorem doCommit_of_pending {s : State} (h : s.pendC = true) : doCommit s = finishCmd 1#2 0x01#8 0#8 s := by
  rw [doCommit, if_pos h]

/-- Settles O9: both cases end as a command that is not refused ends. -/
theorem commitRaisesTheHandshake : Obligations.CommitRaisesTheHandshake := fun _ =>
  ⟨fun h => congrArg Host.Outcome.next (doCommit_of_not_pending h),
    fun h => congrArg Host.Outcome.next (doCommit_of_pending h)⟩

/-- Settles O11: CLEAR_STATE is one update of each channel's delay state. -/
theorem clearStateZeroesTheDelays : Obligations.ClearStateZeroesTheDelays := fun _ => rfl

/-! ## Frames -/

theorem exec_frame_of_ready {s : State} (hrun : s.ctrl.run = true) (hfull : s.out.full = false) (last : Bool)
    (d1 d0 : F32) : exec (.frame last d1 d0) s = .next (acceptFrame last d1 d0 s) := by
  rw [exec, execFrame, if_pos ((sReady_iff s).mpr ⟨hrun, hfull⟩)]

theorem exec_frame_of_not_ready {s : State} (h : s.ctrl.run = false ∨ s.out.full = true) (last : Bool)
    (d1 d0 : F32) : exec (.frame last d1 d0) s = .next s := by
  have hn : ¬ sReady s = true := by
    rw [sReady_iff]
    rcases h with h | h <;> simp [h]
  rw [exec, execFrame, if_neg hn]

/-- Settles O32: an accepted frame takes APPLY's two fields first, and an offer that is not accepted waits. -/
theorem frameIsFilteredAndCollected : Obligations.FrameIsFilteredAndCollected := by
  intro s last d1 d0
  refine ⟨fun hrun hfull => ?_, fun h => exec_frame_of_not_ready h last d1 d0⟩
  rw [exec_frame_of_ready hrun hfull, acceptFrame, applyStep_eq]
  rfl

/-- A frame makes the copy that is due itself, so APPLY before it makes no difference. -/
theorem acceptFrame_applyStep (last : Bool) (d1 d0 : F32) (s : State) :
    acceptFrame last d1 d0 (applyStep s) = acceptFrame last d1 d0 s := by
  rw [acceptFrame, applyStep_applyStep]
  rfl

/-- Settles O35: APPLY leaves RUN and OUT, so the frame is accepted after it as before it. -/
theorem applyBeforeAFrameIsUnobservable : Obligations.ApplyBeforeAFrameIsUnobservable := by
  intro s t last d1 d0 hrun hfull happly
  obtain rfl : applyStep s = t := Host.Outcome.next.inj happly
  have hrun' : (applyStep s).ctrl.run = true := by rwa [applyStep_eq]
  have hfull' : (applyStep s).out.full = false := by rwa [applyStep_eq]
  rw [exec_frame_of_ready hrun hfull, exec_frame_of_ready hrun' hfull', acceptFrame_applyStep]

/-- Settles O33: TAKE with a frame to take. -/
theorem takeDeliversTheHeldFrame : Obligations.TakeDeliversTheHeldFrame := fun _ hfull =>
  congrArg Host.Outcome.next (if_pos hfull)

end Sys2Proof.Machine
end

section
/-!
PROOF. Writes of the shadow: CHAIN_CFG and COEF (40_filter_chain R209, R210, R212).
-/

namespace Sys2Proof.Machine

open Sys2Proof.Safety

/-! ## The lock -/

/-- What the refusal of a locked shadow leaves; it is no command's, so CMD_RESULT stays (60_exceptions R443). -/
theorem raise_shadowLocked (st : Strobes) (v : Word) (a : Addr) (s : State) :
    raise (.wr st v) .shadowLocked a s = cfgErrorState 8#8 a s := by
  rw [raise, resAfter_of_not_refusal rfl]
  rfl

theorem writeShadow_of_pending {s : State} (h : s.pendC = true) (a : Addr) (v : Word) (sh : CoefFile) :
    writeShadow a v sh s = cfgErrorState 8#8 a s := by
  rw [writeShadow, if_pos h, raise_shadowLocked]

theorem writeShadow_of_not_pending {s : State} (h : s.pendC = false) (a : Addr) (v : Word) (sh : CoefFile) :
    writeShadow a v sh s = { s with sh := sh, resp := some ⟨false, none⟩ } := by
  rw [writeShadow, h, if_neg Bool.false_ne_true, ackWrite]

/-! ## CHAIN_CFG -/

theorem exec_wrChainCfg_full (v : Word) (s : State) : exec (.wrChainCfg 0xF#4 v) s = .next (writeChainCfg v s) := by
  rw [exec, execWrChainCfg, strobed_full]

/-- The fields of CHAIN_CFG stand where they are written, and its reserved bits read as 0 (10_state R37). -/
theorem cfgWord_cfgOfWord (v : Word) : cfgWord (cfgOfWord v) = v &&& 0x00000337#32 := by
  refine BitVec.eq_of_getLsbD_eq fun i hi => ?_
  simp only [cfgWord, cfgOfWord, BitVec.getLsbD_append, BitVec.getLsbD_and]
  interval_cases i <;> simp

/-- Settles O29: the shadow's write rule, and the word of the fields just stored. -/
theorem writeChainCfgStoresTheShadow : Obligations.WriteChainCfgStoresTheShadow := by
  intro v s
  simp only [exec_wrChainCfg_full, writeChainCfg]
  refine ⟨fun h => ?_, fun h => ⟨?_, ?_⟩⟩
  · rw [writeShadow_of_pending h]
    rfl
  · rw [writeShadow_of_not_pending h]
    rfl
  · rintro t ht
    obtain rfl := Host.Outcome.next.inj ht
    obtain ⟨hread, -⟩ := exec_readShadow (writeShadow (regAddr .chainCfg) v { s.sh with cfg := cfgOfWord v } s)
    rw [hread, ← cfgWord_cfgOfWord, writeShadow_of_not_pending h]
    rfl

/-! ## COEF -/

theorem exec_wrCoefS07_full (i : BitVec 3) (k : Tap) (v : Word) (s : State) :
    exec (.wrCoefS07 i k 0xF#4 v) s = .next (writeCoef (secOf07 i) k v s) := by
  rw [exec, execWrCoefS07, strobed_full]

theorem exec_wrCoefS8_full (k : Tap) (v : Word) (s : State) :
    exec (.wrCoefS8 k 0xF#4 v) s = .next (writeCoef 8 k v s) := by
  rw [exec, execWrCoefS8, strobed_full]

/-- Replacing one tap of one section keeps every other coefficient word. -/
theorem tapGet_set_tapSet (coef : Vector Taps 9) (i j : Sec) (k l : Tap) (v : Word) :
    tapGet (coef.set i (tapSet coef[i] k v))[j] l = if j.val = i.val ∧ l = k then v else tapGet coef[j] l := by
  by_cases hj : j = i
  · subst hj
    by_cases hl : l = k
    · subst hl
      simp
    · simp [hl, tapGet_tapSet_other]
  · have hne : j.val ≠ i.val := fun h => hj (Fin.ext h)
    simp [hne, Ne.symm hne]

theorem writeCoef_of_pending {s : State} (h : s.pendC = true) (i : Sec) (k : Tap) (v : Word) :
    writeCoef i k v s = cfgErrorState 8#8 (regAddr (.coef i k)) s :=
  writeShadow_of_pending h _ v _

theorem writeCoef_of_not_pending {s : State} (h : s.pendC = false) (i : Sec) (k : Tap) (v : Word) :
    ∃ coef : Vector Taps 9,
      writeCoef i k v s = { s with sh := { s.sh with coef := coef }, resp := some ⟨false, none⟩ } ∧
      ∀ (j : Sec) (l : Tap), tapGet coef[j] l =
        if j.val = i.val ∧ l = k then v else tapGet s.sh.coef[j] l :=
  ⟨_, writeShadow_of_not_pending h _ v _, fun j l => tapGet_set_tapSet s.sh.coef i j k l v⟩

/-- Settles O30: both rows of COEF perform one write rule, of which the section is an operand. -/
theorem writeCoefStoresOneTap : Obligations.WriteCoefStoresOneTap := by
  intro v s k
  simp only [exec_wrCoefS07_full, exec_wrCoefS8_full, Host.Outcome.next.injEq]
  exact ⟨fun h => ⟨fun i => writeCoef_of_pending h (secOf07 i) k v, writeCoef_of_pending h 8 k v⟩,
    fun h => ⟨fun i => writeCoef_of_not_pending h (secOf07 i) k v, writeCoef_of_not_pending h 8 k v⟩⟩

end Sys2Proof.Machine
end

section
/-!
PROOF. The Gray codes bit by bit, and the synchroniser steps that copy them (41_fifo R272, R277, R278).
-/

namespace Sys2Proof.Machine

open Sys2Proof.Safety

/-! ## Gray codes -/

/-- Bits beyond the top one are 0, so each bit is the exclusive or of the code's bits from there up. -/
theorem gray2bin_getLsbD (g : Ptr) (i : Nat) : (gray2bin g).getLsbD i =
    (g.getLsbD i ^^ g.getLsbD (i + 1) ^^ g.getLsbD (i + 2) ^^ g.getLsbD (i + 3) ^^ g.getLsbD (i + 4) ^^
      g.getLsbD (i + 5)) := by
  simp only [gray2bin, BitVec.getLsbD_xor, BitVec.getLsbD_ushiftRight, Nat.add_comm i]

/-- The bit above collects all but the code's own bit. -/
theorem gray2bin_getLsbD_step (g : Ptr) (i : Nat) :
    (gray2bin g).getLsbD i = ((gray2bin g).getLsbD (i + 1) ^^ g.getLsbD i) := by
  have htop : g.getLsbD (i + 6) = false := BitVec.getLsbD_of_ge g _ (Nat.le_add_left 6 i)
  simp only [gray2bin_getLsbD, Nat.add_assoc, Nat.reduceAdd, htop, Bool.xor_false, Bool.xor_assoc,
    Bool.xor_comm (g.getLsbD i)]

theorem gray2bin_getLsbD_top (g : Ptr) : (gray2bin g).getLsbD 5 = g.getLsbD 5 := by
  rw [gray2bin_getLsbD_step, BitVec.getLsbD_of_ge _ 6 (by decide), Bool.false_xor]

/-- Moving the pointer by one flips one bit of its code, the wrap included. -/
theorem gray_succ_flips_one_bit (b : Ptr) : ∃ i : Fin 6, gray b ^^^ gray (b + 1) = 1#6 <<< i.val := by
  revert b; decide

/-- Settles O42: `gray2bin` bit by bit, its two inverse laws, and the 64 successors. -/
theorem grayCodesDifferInOneBit : Obligations.GrayCodesDifferInOneBit :=
  ⟨fun _ => rfl, fun g => ⟨gray2bin_getLsbD_top g, fun i => gray2bin_getLsbD_step g i⟩,
    fun b => ⟨gray2bin_gray b, gray_gray2bin b⟩, gray_succ_flips_one_bit, by decide⟩

/-! ## Synchroniser steps -/

/-- The synchronised view shows the true occupancy. -/
theorem levelR_syncW2RFifo (f : FifoA) : levelR (syncW2RFifo f) = trueLevelA f := by
  simp only [levelR, syncW2RFifo, gray2bin_gray, trueLevelA]

theorem levelW_syncR2WFifo (f : FifoA) : levelW (syncR2WFifo f) = trueLevelA f := by
  simp only [levelW, syncR2WFifo, gray2bin_gray, trueLevelA]

/-- Settles O41: a view is the distance to the pointer whose Gray code the step copied. -/
theorem synchronisersCopyThePointers : Obligations.SynchronisersCopyThePointers := fun s c =>
  ⟨rfl, rfl, levelR_syncW2RFifo (getCh s c).fa, levelW_syncR2WFifo (getCh s c).fa⟩

end Sys2Proof.Machine
end

section
/-!
PROOF. The order of the FIFO views, which every operation keeps, and the invariants in the reset state
(41_fifo R286, 70_reset R481, R495).
-/

namespace Sys2Proof.Machine

open Sys2Proof.Safety

/-! ## A pointer that moves by one -/

theorem ptr_succ_sub {a b : Ptr} (h : (a - b).toNat < 63) : (a + 1 - b).toNat = (a - b).toNat + 1 := by
  bv_omega

theorem ptr_sub_succ {a b : Ptr} (h : 0 < (a - b).toNat) : (a - (b + 1)).toNat = (a - b).toNat - 1 := by
  bv_omega

/-! ## The levels of a flushed FIFO -/

@[simp] theorem levelR_flushA (f : FifoA) : levelR (flushA f) = 0 := by simp [levelR, flushA, gray2bin]

@[simp] theorem levelW_flushA (f : FifoA) : levelW (flushA f) = 0 := by simp [levelW, flushA, gray2bin]

@[simp] theorem trueLevelA_flushA (f : FifoA) : trueLevelA (flushA f) = 0 := by simp [trueLevelA, flushA]

@[simp] theorem levelB_flushB (f : FifoB) : levelB (flushB f) = 0 := by simp [levelB, flushB]

/-! ## What keeps the views of FIFO-A in order -/

theorem fifoAOk_flushA (f : FifoA) : FifoAOk (flushA f) := by
  simp [FifoAOk]

theorem fifoAOk_syncW2RFifo {f : FifoA} (h : FifoAOk f) : FifoAOk (syncW2RFifo f) := by
  obtain ⟨-, htrue, hcap⟩ := h
  exact ⟨(levelR_syncW2RFifo f).le, htrue, hcap⟩

theorem fifoAOk_syncR2WFifo {f : FifoA} (h : FifoAOk f) : FifoAOk (syncR2WFifo f) := by
  obtain ⟨hread, htrue, hcap⟩ := h
  rw [FifoAOk, levelW_syncR2WFifo]
  exact ⟨hread, le_rfl, htrue.trans hcap⟩

/-- A push that is not dropped raises the producer's view and the true occupancy alike, and the former was below
the capacity. -/
theorem fifoAOk_pushA {f : FifoA} (h : FifoAOk f) (v : List F32) : FifoAOk (pushA f v).2 := by
  rcases pushA_cases f v with ⟨-, e⟩ | ⟨hroom, e⟩ <;> rw [e]
  · exact h
  · obtain ⟨hread, htrue, -⟩ := h
    have hview : (f.wr + 1 - gray2bin f.rsync).toNat = levelW f + 1 :=
      ptr_succ_sub (show levelW f < 63 by omega)
    have hocc : (f.wr + 1 - f.rd).toNat = trueLevelA f + 1 :=
      ptr_succ_sub (show trueLevelA f < 63 by omega)
    simp only [FifoAOk, levelW, trueLevelA, hview, hocc]
    exact ⟨Nat.le_succ_of_le hread, Nat.succ_le_succ htrue, hroom⟩

/-- A pull lowers the consumer's view and the true occupancy alike, and the former was positive. -/
theorem fifoAOk_rd_succ {f : FifoA} (h : FifoAOk f) (hpos : 0 < levelR f) :
    FifoAOk { f with rd := f.rd + 1 } := by
  obtain ⟨hread, htrue, hcap⟩ := h
  have hview : (gray2bin f.wsync - (f.rd + 1)).toNat = levelR f - 1 := ptr_sub_succ hpos
  have hocc : (f.wr - (f.rd + 1)).toNat = trueLevelA f - 1 := ptr_sub_succ (hpos.trans_le hread)
  simp only [FifoAOk, levelR, trueLevelA, hview, hocc]
  exact ⟨Nat.sub_le_sub_right hread 1, (Nat.sub_le _ 1).trans htrue, hcap⟩

/-! ## What keeps FIFO-B within its capacity -/

theorem fifoBOk_flushB (f : FifoB) : FifoBOk (flushB f) := by
  simp [FifoBOk]

theorem fifoBOk_pushB {f : FifoB} (h : FifoBOk f) (v : Spectrum) : FifoBOk (pushB f v).2 := by
  rcases pushB_cases f v with ⟨-, e⟩ | ⟨hroom, e⟩ <;> rw [e]
  · exact h
  · have hlevel : levelB { f with wr := f.wr + 1 } = levelB f + 1 := levelB_wr_succ f (by omega)
    exact hlevel.trans_le hroom

/-- Pulls only take snapshots away. -/
theorem fifoBOk_pullMany {f fb : FifoB} {n : Nat} {v : Spectrum} (h : FifoBOk f) (hn : n ≤ levelB f)
    (hp : pullMany n f none = (some v, fb)) : FifoBOk fb := by
  obtain ⟨-, hdrop⟩ := contentsB_pullMany hn hp
  have hlevel : levelB fb = levelB f - n := by
    rw [← contentsB_length, hdrop, List.length_drop, contentsB_length]
  rw [FifoBOk, hlevel]
  exact (Nat.sub_le _ n).trans h

/-! ## Both FIFOs of a channel -/

/-- The FIFO invariants of one channel (41_fifo R286). -/
def ChanLevelsOk (k : Chan) : Prop := FifoAOk k.fa ∧ FifoBOk k.fb

theorem levelsOk_iff (s : State) : LevelsOk s ↔ ∀ c, ChanLevelsOk (getCh s c) := Iff.rfl

theorem chanLevelsOk_reset : ChanLevelsOk Chan.reset :=
  ⟨fifoAOk_flushA FifoA.reset, fifoBOk_flushB FifoB.reset⟩

theorem chanLevelsOk_ingestChan {k : Chan} (h : ChanLevelsOk k) (len : Nat) (v : F32) :
    ChanLevelsOk (ingestChan len v k) := by
  obtain ⟨hA, hB⟩ := h
  rcases ingestChan_cases len v k with ⟨-, e⟩ | ⟨-, e⟩ <;> rw [e]
  · exact ⟨hA, hB⟩
  · exact ⟨fifoAOk_pushA hA _, hB⟩

/-- FFT_STEP pulls only where its view of FIFO-A shows a block. -/
theorem chanLevelsOk_fftChan {k : Chan} (h : ChanLevelsOk k) (size : Nat) (f : F32) :
    ChanLevelsOk (fftChan size f k) := by
  obtain ⟨hA, hB⟩ := h
  rcases fftChan_cases size f k with ⟨-, e⟩ | ⟨hpos, k', rfl, ⟨-, e⟩ | ⟨-, e⟩⟩ <;> rw [e]
  · exact ⟨hA, hB⟩
  · exact ⟨fifoAOk_rd_succ hA hpos, fifoBOk_pushB hB _⟩
  · exact ⟨fifoAOk_rd_succ hA hpos, hB⟩

theorem chanEffect_levels {s : State} {k k' : Chan} (h : ChanEffect s k k') (hk : ChanLevelsOk k) :
    ChanLevelsOk k' := by
  obtain ⟨hA, hB⟩ := hk
  cases h with
  | nothing | clear => exact ⟨hA, hB⟩
  | prepare => exact ⟨fifoAOk_flushA k.fa, fifoBOk_flushB k.fb⟩
  | order => exact ⟨hA, fifoBOk_flushB k.fb⟩
  | pull n v fb hn hp => exact ⟨hA, fifoBOk_pullMany hB hn hp⟩
  | ingest v st => exact chanLevelsOk_ingestChan (k := { k with st := st }) ⟨hA, hB⟩ _ v
  | syncW2R => exact ⟨fifoAOk_syncW2RFifo hA, hB⟩
  | syncR2W => exact ⟨fifoAOk_syncR2WFifo hA, hB⟩
  | fft => exact chanLevelsOk_fftChan ⟨hA, hB⟩ _ _

/-- Settles O53: each side moves its pointer only by what its own view allows, so every effect keeps the order. -/
theorem fifoLevelsStayInOrder : Obligations.FifoLevelsStayInOrder := by
  intro s t h hs
  rw [levelsOk_iff] at h ⊢
  exact step_preserves_chan chanLevelsOk_reset (fun _ _ _ => chanEffect_levels) h hs

/-! ## The reset state -/

theorem resetBlock_reset : resetBlock State.reset = State.reset := rfl

theorem levelsOk_reset : LevelsOk State.reset := by
  rw [levelsOk_iff]
  intro c
  rw [getCh_reset]
  exact chanLevelsOk_reset

/-- After reset no commit is pending, the engine is off, and each view has its pointer's Gray code. -/
theorem quiescent_reset : Quiescent State.reset := by
  intro i
  cases i with
  | syncW2R c | syncR2W c | fftStep c =>
    rw [internalEnabled, getCh_reset]
    rfl
  | _ => rfl

/-- Settles O56: the reset event gives the register and snapshot invariants from any state, and leads from the reset
state to itself. -/
theorem resetMeetsTheInvariants : Obligations.ResetMeetsTheInvariants := by
  have hregs : RegistersOk State.reset := resetBlock_reset ▸ resetBlock_registers State.reset
  have hsnaps : SnapshotsOk State.reset := resetBlock_reset ▸ resetBlock_snapshots State.reset
  exact ⟨reset_mem_wf, levelsOk_reset, hregs, hsnaps, quiescent_reset⟩

end Sys2Proof.Machine
end

section
/-!
PROOF. The pull commands, and the read views of the FIFOs and OUTBUF (41_fifo R280 to R285).
-/

namespace Sys2Proof.Machine

open Sys2Proof.Safety

/-! ## Pulls by the pointers of FIFO-B -/

theorem levelB_eq_zero_iff (f : FifoB) : levelB f = 0 ↔ f.wr = f.rd := by
  rw [levelB]
  constructor <;> intro h <;> bv_omega

theorem pullB_of_wr_eq_rd {f : FifoB} (h : f.wr = f.rd) : pullB f = none :=
  if_pos ((levelB_eq_zero_iff f).mpr h)

theorem pullB_of_wr_ne_rd {f : FifoB} (h : f.wr ≠ f.rd) :
    pullB f = some (f.slot[slotIx f.rd], { f with rd := f.rd + 1 }) :=
  if_neg fun h0 => h ((levelB_eq_zero_iff f).mp h0)

/-- As many pulls as there are unread frames give the newest one and leave FIFO-B empty (41_fifo R281). -/
theorem pullMany_levelB {f : FifoB} (h : f.wr ≠ f.rd) (last : Option Spectrum) :
    pullMany (levelB f) f last = (some f.slot[slotIx (f.wr - 1)], { f with rd := f.wr }) := by
  have hpos : levelB f ≠ 0 := fun h0 => h ((levelB_eq_zero_iff f).mp h0)
  have hlast : f.rd + BitVec.ofNat 6 (levelB f - 1) = f.wr - 1 := by
    rw [← rd_add_levelB f]
    bv_omega
  simp only [pullMany_eq _ f last le_rfl, if_neg hpos, hlast, rd_add_levelB]

/-! ## The commands -/

/-- OUTBUF after a frame whose length tag and data agree is loaded: the frame's words, and beyond them the
words it held. -/
theorem memRead_loadOutBuf (o : OutBuf) {v : Spectrum} (h : v.data.length = v.len.toNat) (j : Nat) :
    memRead (loadOutBuf o v).data j = if h : j < v.data.length then v.data[j] else memRead o.data j := by
  have hdata : (loadOutBuf o v).data = memStoreSeq o.data v.data := by
    rw [loadOutBuf, List.take_of_length_le h.le]
  rw [hdata, memRead_memStoreSeq]

/-- A level as a field of a wider word. -/
theorem ofNat_ptr_toNat (m : Nat) (x : Ptr) : BitVec.ofNat (m + 6) x.toNat = 0#m ++ x := by
  have hlt : x.toNat < 2 ^ (m + 6) := x.isLt.trans_le (Nat.pow_le_pow_right (by decide) (Nat.le_add_left 6 m))
  apply BitVec.eq_of_toNat_eq
  simp [BitVec.toNat_append, Nat.mod_eq_of_lt hlt]

theorem doPullFrame_of_empty {s : State} {c : Ch} (h : (getCh s c).fb.wr = (getCh s c).fb.rd) :
    doPullFrame c s = finishCmd 2#2 0x05#8 0#8 s := by
  rw [doPullFrame, pullB_of_wr_eq_rd h]

theorem doPullFrame_of_pull {s : State} {c : Ch} {v : Spectrum} {fb : FifoB}
    (h : pullB (getCh s c).fb = some (v, fb)) : doPullFrame c s = finishCmd 1#2 0x05#8 1#8
      (setCh s c { getCh s c with fb := fb, ob := loadOutBuf (getCh s c).ob v }) := by
  rw [doPullFrame, h]

theorem doPullLatest_of_empty {s : State} {c : Ch} (h : (getCh s c).fb.wr = (getCh s c).fb.rd) :
    doPullLatest c s = finishCmd 2#2 0x06#8 0#8 s := by
  have hlevel : levelB (getCh s c).fb = 0 := (levelB_eq_zero_iff _).mpr h
  rw [doPullLatest, hlevel]
  rfl

theorem doPullLatest_of_pull {s : State} {c : Ch} {v : Spectrum} {fb : FifoB}
    (h : pullMany (levelB (getCh s c).fb) (getCh s c).fb none = (some v, fb)) :
    doPullLatest c s = finishCmd 1#2 0x06#8 (0#2 ++ ((getCh s c).fb.wr - (getCh s c).fb.rd))
      (setCh s c { getCh s c with fb := fb, ob := loadOutBuf (getCh s c).ob v }) := by
  rw [← ofNat_ptr_toNat, doPullLatest]
  simp only [h]
  rfl

/-- Settles O13: one pull, by the pointers, and the frame's words stored over those of OUTBUF. -/
theorem pullFrameLoadsTheOldestFrame : Obligations.PullFrameLoadsTheOldestFrame := by
  intro s c
  refine ⟨fun h => ?empty, fun h => ⟨_, ?frame, memRead_loadOutBuf (getCh s c).ob⟩⟩
  case empty =>
    rw [exec, execPullFrame, doPullFrame_of_empty h]
    rfl
  case frame =>
    rw [exec, execPullFrame, doPullFrame_of_pull (pullB_of_wr_ne_rd h)]
    rfl

/-- Settles O14: as many pulls as there are frames end at the newest one. -/
theorem pullLatestKeepsTheNewestFrame : Obligations.PullLatestKeepsTheNewestFrame := by
  intro s c
  refine ⟨fun h => ?empty, fun h => ⟨_, ?frame, memRead_loadOutBuf (getCh s c).ob⟩⟩
  case empty =>
    rw [exec, execPullLatest, doPullLatest_of_empty h]
    rfl
  case frame =>
    rw [exec, execPullLatest, doPullLatest_of_pull (pullMany_levelB h none)]
    rfl

/-! ## Reads -/

theorem valFifoaLevel_eq (c : Ch) (s : State) :
    valFifoaLevel c s = 0#26 ++ (gray2bin (getCh s c).fa.wsync - (getCh s c).fa.rd) :=
  ofNat_ptr_toNat 26 _

theorem valFifobLevel_eq (c : Ch) (s : State) :
    valFifobLevel c s = 0#26 ++ ((getCh s c).fb.wr - (getCh s c).fb.rd) :=
  ofNat_ptr_toNat 26 _

/-- Settles O24: each row answers with its register's value, of which only the levels are computed as numbers. -/
theorem fifoViewsReadBack : Obligations.FifoViewsReadBack := by
  refine ⟨fun s c => ⟨?levelA, ?levelB, rfl, rfl, rfl⟩, fun s j => ⟨rfl, rfl⟩⟩
  case levelA =>
    rw [exec, execRdFifoaLevel, valFifoaLevel_eq]
    rfl
  case levelB =>
    rw [exec, execRdFifobLevel, valFifobLevel_eq]
    rfl

end Sys2Proof.Machine
end

section
/-!
PROOF. The sample collector: what INGEST does, and the blocks it cuts a stream into (42_collector R321, R325).
-/

namespace Sys2Proof.Machine

open Sys2Proof.Safety

/-! ## One sample -/

theorem ingestChan_of_counting {len : Nat} {k : Chan} (h : k.acnt + 1 ≠ len) (v : F32) :
    ingestChan len v k = { k with acc := memWrite k.acc k.acnt v, acnt := k.acnt + 1 } :=
  if_neg h

theorem ingestChan_of_complete {len : Nat} {k : Chan} (h : k.acnt + 1 = len) (v : F32) :
    ingestChan len v k =
      { k with
        acc := memWrite k.acc k.acnt v
        fa := (pushA k.fa (memPrefix (memWrite k.acc k.acnt v) len)).2
        acnt := 0 } :=
  if_pos h

theorem pushA_of_room {f : FifoA} (h : levelW f < 30) (v : List F32) :
    pushA f v = (true, { f with slot := f.slot.set (slotIx f.wr) v, wr := f.wr + 1 }) := by
  rcases pushA_cases f v with ⟨hfull, -⟩ | ⟨-, e⟩
  · omega
  · exact e

/-- Settles O45: the count decides whether a block is complete, and the producer's view whether its push is dropped. -/
theorem ingestCompletesBlocks : Obligations.IngestCompletesBlocks := by
  intro s c v
  refine ⟨fun hcount => ?counting, fun hcount hfull => ?dropped, fun hcount hroom => ?pushed⟩
  case counting => rw [exec, execIngest, ingestChan_of_counting hcount]
  case dropped => rw [exec, execIngest, ingestChan_of_complete hcount, pushA_of_full hfull]
  case pushed =>
    rw [exec, execIngest, ingestChan_of_complete hcount, pushA_of_room hroom]
    rfl

/-! ## The accumulator -/

/-- The word written behind the first `n` words extends them. -/
theorem memPrefix_memWrite {m : Mem} (h : memWf m = true) (n : Nat) (v : F32) :
    memPrefix (memWrite m n v) (n + 1) = memPrefix m n ++ [v] := by
  simp only [memPrefix, List.range_succ, List.map_append, List.map_singleton, memRead_memWrite_same h]
  congr 1
  exact List.map_congr_left fun i hi => memRead_memWrite_other m v (List.mem_range.mp hi).ne

/-! ## The producer's view -/

/-- A push that is not dropped is one snapshot more to the producer. -/
theorem levelW_pushA {f : FifoA} (h : levelW f < 30) (v : List F32) :
    levelW (pushA f v).2 = levelW f + 1 := by
  rw [pushA_of_room h]
  exact ptr_succ_sub (show levelW f < 63 by omega)

/-! ## Whole blocks and the samples behind them -/

/-- The samples of a stream that its whole blocks of `len` leave over. -/
def leftover (len : Nat) (vs : List F32) : List F32 := vs.drop (vs.length / len * len)

theorem leftover_length (len : Nat) (vs : List F32) : (leftover len vs).length = vs.length % len := by
  rw [leftover, List.length_drop, Nat.mod_eq_sub_div_mul]

/-- A further sample that completes no block. -/
theorem div_mod_succ_of_lt {m len : Nat} (h : m % len + 1 < len) :
    (m + 1) / len = m / len ∧ (m + 1) % len = m % len + 1 := by
  have hm : m % len + len * (m / len) = m := Nat.mod_add_div m len
  exact (Nat.div_mod_unique (by omega)).mpr ⟨by omega, h⟩

/-- A further sample that completes one. -/
theorem div_mod_succ_of_eq {m len : Nat} (h : m % len + 1 = len) :
    (m + 1) / len = m / len + 1 ∧ (m + 1) % len = 0 := by
  have hm : m % len + len * (m / len) = m := Nat.mod_add_div m len
  exact (Nat.div_mod_unique (by omega)).mpr ⟨by rw [Nat.mul_succ]; omega, by omega⟩

/-- A further sample leaves the whole blocks before it as they are. -/
theorem blocks_before_last {len : Nat} (vs : List F32) (v : F32) :
    (List.range (vs.length / len)).map (fun b => ((vs ++ [v]).drop (b * len)).take len) = blocks len vs := by
  refine List.map_congr_left fun b hb => ?_
  have hend : b * len + len ≤ vs.length :=
    calc b * len + len = (b + 1) * len := (Nat.succ_mul b len).symm
      _ ≤ vs.length / len * len := Nat.mul_le_mul_right len (List.mem_range.mp hb)
      _ ≤ vs.length := Nat.div_mul_le_self _ _
  rw [List.drop_append_of_le_length (by omega), List.take_append_of_le_length (by rw [List.length_drop]; omega)]

theorem leftover_append_of_lt {len : Nat} {vs : List F32} (h : vs.length % len + 1 < len) (v : F32) :
    leftover len (vs ++ [v]) = leftover len vs ++ [v] := by
  rw [leftover, List.length_append, List.length_singleton, (div_mod_succ_of_lt h).1,
    List.drop_append_of_le_length (Nat.div_mul_le_self _ _), leftover]

theorem blocks_append_of_lt {len : Nat} {vs : List F32} (h : vs.length % len + 1 < len) (v : F32) :
    blocks len (vs ++ [v]) = blocks len vs := by
  rw [blocks, List.length_append, List.length_singleton, (div_mod_succ_of_lt h).1, blocks_before_last]

theorem leftover_append_of_eq {len : Nat} {vs : List F32} (h : vs.length % len + 1 = len) (v : F32) :
    leftover len (vs ++ [v]) = [] := by
  apply List.eq_nil_of_length_eq_zero
  rw [leftover_length, List.length_append, List.length_singleton, (div_mod_succ_of_eq h).2]

theorem blocks_append_of_eq {len : Nat} {vs : List F32} (h : vs.length % len + 1 = len) (v : F32) :
    blocks len (vs ++ [v]) = blocks len vs ++ [leftover len vs ++ [v]] := by
  rw [blocks, List.length_append, List.length_singleton, (div_mod_succ_of_eq h).1, List.range_succ,
    List.map_append, List.map_singleton, blocks_before_last, List.drop_append_of_le_length (Nat.div_mul_le_self _ _),
    ← leftover, List.take_of_length_le]
  rw [List.length_append, leftover_length, List.length_singleton, h]

/-! ## A stream -/

theorem ingestAll_append (len : Nat) (us vs : List F32) (k : Chan) :
    ingestAll len (us ++ vs) k = ingestAll len vs (ingestAll len us k) := by
  induction us generalizing k with
  | nil => rfl
  | cons u us ih => exact ih (ingestChan len u k)

/-- What the stream `vs` has made of the empty collector of `k` in `k'`: the samples that complete no block wait in
the accumulator, and the blocks, as long as they fit, are in FIFO-A. -/
structure Collected (len : Nat) (k : Chan) (vs : List F32) (k' : Chan) : Prop where
  canonical : memWf k'.acc = true
  count : k'.acnt = vs.length % len
  waiting : memPrefix k'.acc k'.acnt = leftover len vs
  views : FifoAOk k'.fa
  level : levelW k.fa + vs.length / len ≤ 30 → levelW k'.fa = levelW k.fa + vs.length / len
  pushed : levelW k.fa + vs.length / len ≤ 30 → contentsA k'.fa = contentsA k.fa ++ blocks len vs

theorem collected_nil (len : Nat) {k : Chan} (hcount : k.acnt = 0) (hacc : memWf k.acc = true)
    (hfa : FifoAOk k.fa) : Collected len k [] k where
  canonical := hacc
  count := by rw [hcount, List.length_nil, Nat.zero_mod]
  waiting := by rw [hcount, leftover, List.drop_nil]; rfl
  views := hfa
  level _ := by rw [List.length_nil, Nat.zero_div, Nat.add_zero]
  pushed _ := by rw [blocks, List.length_nil, Nat.zero_div, List.range_zero, List.map_nil, List.append_nil]

/-- INGEST of a sample that completes no block adds it to the waiting ones. -/
theorem collected_append_of_lt {len : Nat} {k k' : Chan} {vs : List F32} (hc : Collected len k vs k')
    (h : vs.length % len + 1 < len) (v : F32) : Collected len k (vs ++ [v]) (ingestChan len v k') := by
  have hcounting : k'.acnt + 1 ≠ len := by
    rw [hc.count]
    exact h.ne
  obtain ⟨hdiv, hmod⟩ := div_mod_succ_of_lt h
  rw [ingestChan_of_counting hcounting]
  constructor <;> simp only [List.length_append, List.length_singleton, hdiv, hmod]
  case canonical => exact memWrite_wf hc.canonical _ v
  case count => rw [hc.count]
  case waiting => rw [memPrefix_memWrite hc.canonical, hc.waiting, leftover_append_of_lt h]
  case views => exact hc.views
  case level => exact hc.level
  case pushed => simpa only [blocks_append_of_lt h] using hc.pushed

/-- INGEST of a sample that completes a block pushes the waiting ones and it. -/
theorem collected_append_of_eq {len : Nat} {k k' : Chan} {vs : List F32} (hc : Collected len k vs k')
    (h : vs.length % len + 1 = len) (v : F32) : Collected len k (vs ++ [v]) (ingestChan len v k') := by
  have hcomplete : k'.acnt + 1 = len := by rw [hc.count, h]
  have hblock : memPrefix (memWrite k'.acc k'.acnt v) len = leftover len vs ++ [v] := by
    rw [← hcomplete, memPrefix_memWrite hc.canonical, hc.waiting, hcomplete]
  obtain ⟨hdiv, hmod⟩ := div_mod_succ_of_eq h
  obtain ⟨-, htrue, -⟩ := hc.views
  rw [ingestChan_of_complete hcomplete, hblock]
  constructor <;> simp only [List.length_append, List.length_singleton, hdiv, hmod]
  case canonical => exact memWrite_wf hc.canonical _ v
  case waiting => exact (leftover_append_of_eq h v).symm
  case views => exact fifoAOk_pushA hc.views _
  case level =>
    intro hfits
    have hlevel := hc.level (by omega)
    rw [levelW_pushA (by omega), hlevel, Nat.add_assoc]
  case pushed =>
    intro hfits
    have hlevel := hc.level (by omega)
    rw [contentsA_pushA htrue, if_pos (by omega), hc.pushed (by omega), blocks_append_of_eq h, List.append_assoc]

theorem collected_ingestAll {len : Nat} (hlen : 1 ≤ len) {k : Chan} (hcount : k.acnt = 0)
    (hacc : memWf k.acc = true) (hfa : FifoAOk k.fa) (vs : List F32) :
    Collected len k vs (ingestAll len vs k) := by
  induction vs using List.reverseRecOn with
  | nil => exact collected_nil len hcount hacc hfa
  | append_singleton vs v ih =>
    rw [ingestAll_append]
    have hmod : vs.length % len + 1 ≤ len := Nat.mod_lt _ hlen
    rcases hmod.lt_or_eq with h | h
    · exact collected_append_of_lt ih h v
    · exact collected_append_of_eq ih h v

/-- Settles O46, by induction on the stream from its end. -/
theorem collectorCutsTheStreamIntoBlocks : Obligations.CollectorCutsTheStreamIntoBlocks :=
  fun _ vs _ hlen hcount hacc hfa =>
    have hc := collected_ingestAll hlen hcount hacc hfa vs
    ⟨hc.count, hc.pushed⟩

end Sys2Proof.Machine
end

section
/-!
PROOF. The analysis registers: the values ACC_LEN and SILENCE_FLOOR take, and their reads (42_collector R322, R323,
43_spectrum R348 to R351).
-/

namespace Sys2Proof.Machine

open Sys2Proof.Safety

/-! ## Refusals of class CFG -/

/-- What raising an error of class CFG leaves on a write elsewhere than to CMD (60_exceptions R443). -/
theorem raise_of_cfg {c : ErrCode} (h : errIsBus c = false) {a : Addr} (ha : a ≠ 0x0018#16) (st : Strobes)
    (v : Word) (s : State) : raise (.wr st v) c a s = cfgErrorState (errNum c) a s := by
  rw [raise, stickyBus_of_cfg h, stickyCfg_of_cfg h, resAfter_other_addr ha]
  rfl

/-! ## ACC_LEN -/

theorem accLenLegal_iff (v : Word) : accLenLegal v = true ↔ 1 ≤ v.toNat ∧ v.toNat ≤ 8192 := by
  have hhigh : v.extractLsb' 14 18 = 0#18 ↔ v.toNat < 2 ^ 14 := by
    rw [← BitVec.toNat_inj, BitVec.extractLsb'_toNat, BitVec.toNat_zero, Nat.shiftRight_eq_div_pow]
    omega
  have hlow : (v.extractLsb' 0 14).toNat = v.toNat % 2 ^ 14 := by
    rw [BitVec.extractLsb'_toNat, Nat.shiftRight_zero]
  simp only [accLenLegal, Bool.and_eq_true, beq_iff_eq, bne_iff_ne, decide_eq_true_eq, hhigh, hlow, Config.maxLen]
  omega

theorem writeAccLen_of_legal {v : Word} (h : accLenLegal v = true) (s : State) :
    writeAccLen v s = ackWrite { s with accLen := v.extractLsb' 0 14 } :=
  if_pos h

theorem writeAccLen_of_illegal {v : Word} (h : ¬ accLenLegal v = true) (s : State) :
    writeAccLen v s = cfgErrorState 7#8 0x0024#16 s :=
  (if_neg h).trans (raise_of_cfg rfl (by decide) _ v s)

theorem exec_wrAccLen_full (v : Word) (s : State) : exec (.wrAccLen 0xF#4 v) s = .next (writeAccLen v s) := by
  rw [exec, execWrAccLen, strobed_full]

/-! ## SILENCE_FLOOR -/

theorem f32IsFinite_iff_exponent (v : F32) : f32IsFinite v = true ↔ v.extractLsb' 23 8 ≠ 0xFF#8 := by
  rw [f32IsFinite, bne_iff_ne, f32Exp, ne_eq, ne_eq, ← BitVec.toNat_inj]
  rfl

theorem writeSilenceFloor_of_finite {v : Word} (h : f32IsFinite v = true) (s : State) :
    writeSilenceFloor v s = ackWrite { s with floor := v } :=
  if_pos h

theorem writeSilenceFloor_of_not_finite {v : Word} (h : ¬ f32IsFinite v = true) (s : State) :
    writeSilenceFloor v s = cfgErrorState 7#8 0x002C#16 s :=
  (if_neg h).trans (raise_of_cfg rfl (by decide) _ v s)

theorem exec_wrSilenceFloor_full (v : Word) (s : State) :
    exec (.wrSilenceFloor 0xF#4 v) s = .next (writeSilenceFloor v s) := by
  rw [exec, execWrSilenceFloor, strobed_full]

/-- Settles O31: the two write rules' own tests are the stated ranges, and neither register is CMD. -/
theorem valueWritesAreChecked : Obligations.ValueWritesAreChecked := by
  intro v s
  simp only [exec_wrAccLen_full, exec_wrSilenceFloor_full, Host.Outcome.next.injEq]
  refine ⟨fun h => ?_, fun h => ?_, fun h => ?_, fun h => ?_⟩
  · exact writeAccLen_of_legal ((accLenLegal_iff v).mpr h) s
  · exact writeAccLen_of_illegal (mt (accLenLegal_iff v).mp h) s
  · exact writeSilenceFloor_of_finite ((f32IsFinite_iff_exponent v).mpr h) s
  · exact writeSilenceFloor_of_not_finite (mt (f32IsFinite_iff_exponent v).mp (not_not_intro h)) s

/-! ## Reads -/

/-- `zext` to a width given as a sum is zeros above the field. -/
theorem zeroExtend_eq_append (m : Nat) {n : Nat} (x : BitVec n) : x.zeroExtend (m + n) = 0#m ++ x := by
  apply BitVec.eq_of_toNat_eq
  simp [BitVec.toNat_append, BitVec.toNat_setWidth_of_le (Nat.le_add_left n m)]

/-- Settles O25: each row answers with its register's value, extended by zeros where it is narrower than a word. -/
theorem analysisRegistersReadBack : Obligations.AnalysisRegistersReadBack := by
  intro s
  refine ⟨?accLen, ?accLenLive, ?fftCfg, rfl, fun c => ?histCnt⟩
  case accLen =>
    rw [exec, execRdAccLen, valAccLen, zeroExtend_eq_append 18]
    rfl
  case accLenLive =>
    rw [exec, execRdAccLenLive, valAccLenLive, zeroExtend_eq_append 18]
    rfl
  case fftCfg =>
    rw [exec, execRdFftCfg, valFftCfg, zeroExtend_eq_append 28]
    rfl
  case histCnt =>
    rw [exec, execRdHistCnt, valHistCnt, zeroExtend_eq_append 18]
    rfl

end Sys2Proof.Machine
end

section
/-!
PROOF. The spectrum engine: the bins of a frame and their floor, what FFT_STEP does, and the command SET_FFT_ORDER
(43_spectrum R344 to R347, R352, R353).
-/

namespace Sys2Proof.Machine

open Sys2Proof.Safety

/-! ## The floor clamp -/

theorem dbconv_of_silent {m : F32} (h : f32IsNaN m = true ∨ fle m f32Zero = true) (f : F32) : dbconv m f = f :=
  if_pos (Bool.or_eq_true_iff.mpr h)

theorem dbconv_of_below {m f : F32} (h : f32IsNaN (db20 m) = true ∨ flt (db20 m) f = true) : dbconv m f = f := by
  rw [dbconv, if_pos (Bool.or_eq_true_iff.mpr h), ite_self]

theorem dbconv_of_above {m f : F32} (hnan : f32IsNaN m = false) (hle : fle m f32Zero = false)
    (hdb : f32IsNaN (db20 m) = false) (hlt : flt (db20 m) f = false) : dbconv m f = db20 m := by
  rw [dbconv, hnan, hle, hdb, hlt]
  rfl

/-- DBCONV gives the floor, or a value that is no NaN and not below it. -/
theorem dbconv_cases (m f : F32) :
    dbconv m f = f ∨ f32IsNaN (dbconv m f) = false ∧ flt (dbconv m f) f = false := by
  rw [dbconv]
  split
  · exact .inl rfl
  · split
    next => exact .inl rfl
    next h =>
      rw [Bool.not_eq_true, Bool.or_eq_false_iff] at h
      exact .inr h

theorem fle_of_not_flt {a b : F32} (ha : f32IsNaN a = false) (hb : f32IsNaN b = false) (h : flt b a = false) :
    fle a b = true := by
  rw [fle_iff_key ha hb, ← not_lt, ← flt_iff_key hb ha, h]
  exact Bool.false_ne_true

theorem fle_refl {a : F32} (ha : f32IsNaN a = false) : fle a a = true :=
  (fle_iff_key ha ha).mpr le_rfl

/-- With a floor that is no NaN, a clamped value is none either and not below the floor (43_spectrum R353). -/
theorem floor_le_dbconv {f : F32} (hf : f32IsNaN f = false) (m : F32) :
    f32IsNaN (dbconv m f) = false ∧ fle f (dbconv m f) = true := by
  rcases dbconv_cases m f with e | ⟨hnan, hlt⟩
  · rw [e]
    exact ⟨hf, fle_refl hf⟩
  · exact ⟨hnan, fle_of_not_flt hf hnan hlt⟩

/-- Settles O49: every bin is a clamped value. -/
theorem noBinIsNaNOrBelowTheFloor : Obligations.NoBinIsNaNOrBelowTheFloor := by
  intro h size f hf d hd
  obtain ⟨hnan, -⟩ := f32_finite_cases hf
  obtain ⟨k, -, rfl⟩ := List.mem_map.mp hd
  exact floor_le_dbconv hnan _

/-! ## The frame of a history -/

/-- A history of `size` samples is windowed sample by sample. -/
theorem windowed_eq_ofFn {size : Nat} {h : List F32} (hlen : h.length = size) :
    windowed size h = List.ofFn fun i : Fin size => fmul (h[i.val]'(by omega)) (win size i) := by
  apply List.ext_getElem
  · simp [windowed, hlen]
  · intro i hi hi'
    simp [windowed]

theorem windowed_length {size : Nat} {h : List F32} (hlen : h.length = size) : (windowed size h).length = size := by
  rw [windowed_eq_ofFn hlen, List.length_ofFn]

theorem spectrum_eq_ofFn (h : List F32) (size : Nat) (f : F32) :
    spectrum h size f = ⟨BitVec.ofNat 13 (size / 2), List.ofFn fun k : Fin (size / 2) =>
      dbconv (fdiv (fftMag size (windowed size h) k) (f32OfNat (size / 2))) f⟩ := by
  rw [spectrum, List.ofFn_eq_map, ← List.map_coe_finRange_eq_range, List.map_map]
  rfl

/-- The binary32 of half of each size (43_spectrum R345). -/
theorem f32OfNat_half : f32OfNat (2048 / 2) = 0x44800000#32 ∧ f32OfNat (4096 / 2) = 0x45000000#32 ∧
    f32OfNat (8192 / 2) = 0x45800000#32 := by
  decide

/-! ## Silence -/

/-- A zero of either sign times a finite factor is a zero. -/
theorem fmul_isZero {x y : F32} (hx : f32IsZero x = true) (hy : f32IsFinite y = true) :
    f32IsZero (fmul x y) = true := by
  have habs := (f32IsZero_iff_abs x).mp hx
  have hfin : f32IsFinite x = true := by
    rw [f32IsFinite_iff, habs]
    decide
  have hmag : f32Mag x = 0 := by
    rw [f32Mag_eq, habs]
    exact unitsOfBits_eq_zero.mpr rfl
  rw [fmul_finite hfin hy, f32IsZero_iff_abs, f32Abs_pack_roundMag, hmag, Nat.zero_mul]
  decide

theorem windowed_of_zeros {size : Nat} {h : List F32} (hlen : h.length = size)
    (hz : ∀ x ∈ h, x = 0x00000000#32 ∨ x = 0x80000000#32) :
    ∀ x ∈ windowed size h, x = 0x00000000#32 ∨ x = 0x80000000#32 := by
  intro x hx
  rw [windowed_eq_ofFn hlen, List.mem_ofFn] at hx
  obtain ⟨i, rfl⟩ := hx
  have hzero := (f32IsZero_iff _).mpr (hz _ (List.getElem_mem (by omega : i.val < h.length)))
  exact (f32IsZero_iff _).mp (fmul_isZero hzero (win_finite size i))

/-- A frame over a history of zeros is the floor in every bin (43_spectrum R352). -/
theorem spectrum_of_zeros {size : Nat} (hs : size = 2048 ∨ size = 4096 ∨ size = 8192) {h : List F32}
    (hlen : h.length = size) (hz : ∀ x ∈ h, x = 0x00000000#32 ∨ x = 0x80000000#32) (f : F32) :
    spectrum h size f = ⟨BitVec.ofNat 13 (size / 2), List.replicate (size / 2) f⟩ := by
  have hmem : size ∈ [2048, 4096, 8192] := by simpa using hs
  have hmag (k : Fin (size / 2)) : fftMag size (windowed size h) k = f32Zero :=
    transform.zero size hmem _ (windowed_length hlen) (windowed_of_zeros hlen hz) k k.isLt
  have hquot : fle (fdiv f32Zero (f32OfNat (size / 2))) f32Zero = true := by
    obtain ⟨h1024, h2048, h4096⟩ := f32OfNat_half
    rcases hs with rfl | rfl | rfl
    · rw [h1024]; decide
    · rw [h2048]; decide
    · rw [h4096]; decide
  have hbin (k : Fin (size / 2)) :
      dbconv (fdiv (fftMag size (windowed size h) k) (f32OfNat (size / 2))) f = f := by
    rw [hmag k]
    exact dbconv_of_silent (.inr hquot) f
  rw [spectrum_eq_ofFn]
  simp only [hbin, List.ofFn_const]

/-! ## The engine step -/

/-- A channel after the engine has pulled the block at the read pointer into its history (43_spectrum R346). -/
def pulledChan (size : Nat) (k : Chan) : Chan :=
  extendHistory size k.fa.slot[slotIx k.fa.rd] { k with fa := { k.fa with rd := k.fa.rd + 1 } }

/-- The 14 bits of the count hold every size, so the count is not cut off. -/
theorem pulledChan_hcnt {size : Nat} (hs : size < 2 ^ 14) (k : Chan) :
    (pulledChan size k).hcnt.toNat = min size (k.hcnt.toNat + k.fa.slot[slotIx k.fa.rd].length) := by
  rw [pulledChan, extendHistory, BitVec.toNat_ofNat, Nat.mod_eq_of_lt]
  exact (Nat.min_le_left _ _).trans_lt hs

theorem fftChan_of_filling {size : Nat} {k : Chan} (hvis : 0 < levelR k.fa)
    (hcnt : (pulledChan size k).hcnt.toNat ≠ size) (f : F32) : fftChan size f k = pulledChan size k := by
  rcases fftChan_cases size f k with ⟨h0, -⟩ | ⟨-, k', rfl, ⟨hc, -⟩ | ⟨-, e⟩⟩
  · omega
  · exact absurd hc hcnt
  · exact e

theorem fftChan_of_filled {size : Nat} {k : Chan} (hvis : 0 < levelR k.fa)
    (hcnt : (pulledChan size k).hcnt.toNat = size) (f : F32) :
    fftChan size f k =
      { pulledChan size k with fb := (pushB k.fb (spectrum (pulledChan size k).hist size f)).2 } := by
  rcases fftChan_cases size f k with ⟨h0, -⟩ | ⟨-, k', rfl, ⟨-, e⟩ | ⟨hc, -⟩⟩
  · omega
  · exact e
  · exact absurd hcnt hc

theorem pushB_of_room {f : FifoB} (h : levelB f < 30) (v : Spectrum) :
    pushB f v = (true, { f with slot := f.slot.set (slotIx f.wr) v, wr := f.wr + 1 }) := by
  rcases pushB_cases f v with ⟨hfull, -⟩ | ⟨-, e⟩
  · omega
  · exact e

/-- A full FIFO-B drops the frame, and only the pull is left. -/
theorem fftChan_of_dropped {size : Nat} {k : Chan} (hvis : 0 < levelR k.fa)
    (hcnt : (pulledChan size k).hcnt.toNat = size) (hlevel : 30 ≤ levelB k.fb) (f : F32) :
    fftChan size f k = pulledChan size k := by
  rw [fftChan_of_filled hvis hcnt, pushB_of_full hlevel]
  rfl

theorem fftChan_of_pushed {size : Nat} {k : Chan} (hvis : 0 < levelR k.fa)
    (hcnt : (pulledChan size k).hcnt.toNat = size) (hroom : levelB k.fb < 30) (f : F32) :
    fftChan size f k = { pulledChan size k with fb := { k.fb with
      slot := k.fb.slot.set (slotIx k.fb.wr) (spectrum (pulledChan size k).hist size f), wr := k.fb.wr + 1 } } := by
  rw [fftChan_of_filled hvis hcnt, pushB_of_room hroom]

theorem exec_fftStep_of_fftChan {s : State} {c : Ch} {k' : Chan} (hen : s.ctrl.fftEn = true)
    (h : fftChan (fftSize s.fftOrder) s.floor (getCh s c) = k') : exec (.fftStep c) s = .next (setCh s c k') := by
  rw [exec, execFftStep, hen, if_pos rfl, h]

theorem fftSize_lt {o : BitVec 4} (h : orderLegal o = true) : fftSize o < 2 ^ 14 := by
  rcases fftSize_of_legal h with e | e | e <;> rw [e] <;> decide

/-- Settles O47: the bins one by one, the clamp by its branches, and the step by whether the history is full and
FIFO-B has room. -/
theorem fftStepPullsOneBlock : Obligations.FftStepPullsOneBlock := by
  refine ⟨fun size half hmem h hlen f => ?bins, fun m f => ?clamp, ?step⟩
  case bins =>
    have hhalf : f32OfNat (size / 2) = half := by
      obtain ⟨h1024, h2048, h4096⟩ := f32OfNat_half
      simp only [List.mem_cons, Prod.mk.injEq, List.not_mem_nil, or_false] at hmem
      obtain ⟨rfl, rfl⟩ | ⟨rfl, rfl⟩ | ⟨rfl, rfl⟩ := hmem
      · exact h1024
      · exact h2048
      · exact h4096
    rw [← windowed_eq_ofFn hlen, ← hhalf]
    exact spectrum_eq_ofFn h size f
  case clamp =>
    exact ⟨fun h => dbconv_of_silent h f, fun hnan hle => ⟨dbconv_of_below, dbconv_of_above hnan hle⟩⟩
  case step =>
    intro s c k size b h n k' hen hvis hord
    have hcnt : (pulledChan size k).hcnt.toNat = n := pulledChan_hcnt (fftSize_lt hord) k
    refine ⟨fun hfill => exec_fftStep_of_fftChan hen ?filling,
      fun hfull hlevel => exec_fftStep_of_fftChan hen ?dropped,
      fun hfull hroom => exec_fftStep_of_fftChan hen ?pushed⟩
    case filling => exact fftChan_of_filling hvis (hcnt.trans_ne hfill.ne) s.floor
    case dropped => exact fftChan_of_dropped hvis (hcnt.trans hfull) hlevel.ge s.floor
    case pushed => exact fftChan_of_pushed hvis (hcnt.trans hfull) hroom s.floor

/-- Settles O48: a silent history has a silent windowed copy, whose transform is zero, and a step that fills the
history pushes its frame. -/
theorem silenceGivesTheFloor : Obligations.SilenceGivesTheFloor := by
  refine ⟨fun h f size hs hlen hz => spectrum_of_zeros hs hlen hz f,
    fun s c b hregs hlevels hen hvis hroom hhead hcnt hz => ?_⟩
  obtain ⟨-, ⟨hord, -⟩, -, hhist⟩ := hregs
  obtain ⟨⟨hview, -⟩, -⟩ := hlevels c
  have hb : (getCh s c).fa.slot[slotIx (getCh s c).fa.rd] = b := by
    rw [contentsA_eq_cons (by omega)] at hhead
    exact Option.some.inj hhead
  have hfull : (pulledChan (fftSize s.fftOrder) (getCh s c)).hcnt.toNat = fftSize s.fftOrder := by
    rw [pulledChan_hcnt (fftSize_lt hord), hb, Nat.min_eq_left hcnt]
  have hhist' : (pulledChan (fftSize s.fftOrder) (getCh s c)).hist =
      lastN (fftSize s.fftOrder) ((getCh s c).hist ++ b) := by
    rw [← hb]
    rfl
  have hlen : (lastN (fftSize s.fftOrder) ((getCh s c).hist ++ b)).length = fftSize s.fftOrder :=
    lastN_length (by rw [List.length_append, (hhist c).1]; omega)
  refine ⟨_, exec_fftStep_of_fftChan hen (fftChan_of_filled hvis hfull _), ?_⟩
  rw [getCh_setCh_same, contentsB_pushB, if_pos hroom, hhist',
    spectrum_of_zeros (fftSize_of_legal hord) hlen hz]

/-! ## SET_FFT_ORDER -/

theorem doSetFftOrder_of_enabled {s : State} (hen : s.ctrl.fftEn = true) (ord : BitVec 4) :
    doSetFftOrder ord s = refusedCmdState 6#8 0x04#8 s := by
  rw [doSetFftOrder, if_pos hen, refuseCmd_eq_refusedCmdState rfl, cmdOpc_cmdWord]
  rfl

theorem doSetFftOrder_of_legal {ord : BitVec 4} {s : State} (hen : s.ctrl.fftEn = false)
    (hord : orderLegal ord = true) : doSetFftOrder ord s =
      finishCmd 1#2 0x04#8 0#8 (mapCh (reorderChan (fftSize ord)) { s with fftOrder := ord }) := by
  rw [doSetFftOrder, hen, if_neg Bool.false_ne_true, if_pos hord]

/-- Settles O12: an engine that runs refuses first, then an order that is no size of the transform is refused. -/
theorem setFftOrderClearsHistories : Obligations.SetFftOrderClearsHistories := by
  refine fun s ord => ⟨fun hen => ?running, fun hen h11 h12 h13 => ?illegal, fun hen hord => ?legal⟩
  case running => exact congrArg Host.Outcome.next (doSetFftOrder_of_enabled hen ord)
  case illegal =>
    obtain ⟨-, -, -, hbyValue⟩ := illegalCommandWordsAreRefused
    exact hbyValue ord s hen h11 h12 h13
  case legal => exact congrArg Host.Outcome.next (doSetFftOrder_of_legal hen ((orderLegal_iff ord).mpr hord))

end Sys2Proof.Machine
end

section
/-!
PROOF. Bus accesses as a whole: the checks in their order of precedence, then the rule of the register, and the
accesses that are refused whatever the state (44_control R390, R391, R405, R406, 60_exceptions R442).
-/

namespace Sys2Proof.Machine

open Sys2Proof.Safety

/-! ## Which check an address fails -/

theorem misaligned_of_mod_ne_zero {a : Addr} (h : a.toNat % 4 ≠ 0) : misaligned a = true :=
  bne_iff_ne.mpr h

theorem not_misaligned_of_mod_eq_zero {a : Addr} (h : a.toNat % 4 = 0) : misaligned a = false := by
  rw [misaligned, h, bne_self_eq_false]

/-- An address that is no register's is not mapped. -/
theorem regAt_eq_none {a : Addr} (h : ∀ r, regAddr r ≠ a) : regAt a = none :=
  Option.eq_none_iff_forall_ne_some.mpr fun r hr => h r (regAddr_of_regAt hr)

/-! ## Reads -/

theorem busRead_of_misaligned {a : Addr} (h : misaligned a = true) (s : State) :
    busRead a s = busErrorState 1#8 a (some 0#32) s := by
  rw [busRead, if_pos h, raise_of_bus rfl]
  rfl

theorem busRead_of_unmapped {a : Addr} (hm : misaligned a = false) (hr : regAt a = none) (s : State) :
    busRead a s = busErrorState 3#8 a (some 0#32) s := by
  rw [busRead, hm, if_neg Bool.false_ne_true, hr]
  exact raise_of_bus rfl _ a s

theorem busRead_regAddr (r : Reg) (s : State) : busRead (regAddr r) s = readReg r s := by
  rw [busRead, misaligned_regAddr, if_neg Bool.false_ne_true, regAt_regAddr]

/-- Settles O16: an address is misaligned, no register's, or a register's, whose read rule is its read row's. -/
theorem readAccessIsCheckedThenDispatched : Obligations.ReadAccessIsCheckedThenDispatched := by
  refine fun a s => ⟨fun hmod => ?misaligned, fun hmod hno => ?unmapped, ?mapped⟩
  case misaligned =>
    exact congrArg Host.Outcome.next (busRead_of_misaligned (misaligned_of_mod_ne_zero hmod) s)
  case unmapped =>
    exact congrArg Host.Outcome.next
      (busRead_of_unmapped (not_misaligned_of_mod_eq_zero hmod) (regAt_eq_none hno) s)
  case mapped =>
    rintro r rfl
    obtain ⟨v, n, hread⟩ := readReg_frame r s
    exact ⟨readReg r s, v, congrArg Host.Outcome.next (busRead_regAddr r s), exec_readRow r s, by rw [hread]⟩

/-! ## Writes -/

theorem busWrite_of_misaligned {a : Addr} (h : misaligned a = true) (st : Strobes) (v : Word) (s : State) :
    busWrite a st v s = busErrorState 1#8 a none s := by
  rw [busWrite, if_pos h, raise_of_bus rfl]
  rfl

theorem busWrite_of_partial {a : Addr} (hm : misaligned a = false) {st : Strobes} (hst : st ≠ 0xF#4) (v : Word)
    (s : State) : busWrite a st v s = busErrorState 2#8 a none s := by
  rw [busWrite, hm, if_neg Bool.false_ne_true, if_pos hst, raise_of_bus rfl]
  rfl

theorem busWrite_of_unmapped {a : Addr} (hm : misaligned a = false) (hr : regAt a = none) (v : Word)
    (s : State) : busWrite a 0xF#4 v s = busErrorState 3#8 a none s := by
  rw [busWrite, hm, if_neg Bool.false_ne_true, if_neg (not_not_intro rfl), hr]
  exact raise_of_bus rfl _ a s

theorem busWrite_regAddr (r : Reg) (v : Word) (s : State) : busWrite (regAddr r) 0xF#4 v s = writeReg r v s := by
  rw [busWrite, misaligned_regAddr, if_neg Bool.false_ne_true, if_neg (not_not_intro rfl), regAt_regAddr]

/-- The write rule "RO" of the dispatch table (44_control R405). -/
theorem writeReg_of_readOnly {r : Reg} (h : readOnlyReg r = true) (v : Word) (s : State) :
    writeReg r v s = busErrorState 4#8 (regAddr r) none s := by
  have hraise : raise (.wr 0xF#4 v) .readOnly (regAddr r) s = busErrorState 4#8 (regAddr r) none s :=
    raise_of_bus rfl _ _ s
  cases r with
  | ctrl | chainCfg | status | cmd | accLen | silenceFloor | coef => cases h
  | _ => exact hraise

/-- A full write passes the strobe check of its row. -/
theorem exec_writeRow_full (v : Word) (r : Reg) (s : State) :
    exec (writeRow 0xF#4 v r) s = .next (writeReg r v s) := by
  rw [exec_writeRow, strobed_full]

/-- Settles O17: the checks in their order; past them a write does the register's write rule, as its row does. -/
theorem writeAccessIsCheckedThenDispatched : Obligations.WriteAccessIsCheckedThenDispatched := by
  refine fun a st v s =>
    ⟨fun hmod => ?misaligned, fun hmod hst => ?partialWrite, fun hmod hno => ?unmapped, ?readOnly, ?stored⟩
  case misaligned =>
    exact congrArg Host.Outcome.next (busWrite_of_misaligned (misaligned_of_mod_ne_zero hmod) st v s)
  case partialWrite =>
    exact congrArg Host.Outcome.next (busWrite_of_partial (not_misaligned_of_mod_eq_zero hmod) hst v s)
  case unmapped =>
    exact congrArg Host.Outcome.next
      (busWrite_of_unmapped (not_misaligned_of_mod_eq_zero hmod) (regAt_eq_none hno) v s)
  case readOnly =>
    rintro r rfl hro
    exact congrArg Host.Outcome.next ((busWrite_regAddr r v s).trans (writeReg_of_readOnly hro v s))
  case stored =>
    rintro r rfl -
    exact ⟨writeReg r v s, congrArg Host.Outcome.next (busWrite_regAddr r v s), exec_writeRow_full v r s⟩

/-! ## Writes of read-only registers -/

theorem exec_writeRow_of_readOnly {r : Reg} (h : readOnlyReg r = true) (v : Word) (s : State) :
    exec (writeRow 0xF#4 v r) s = .next (busErrorState 4#8 (regAddr r) none s) := by
  rw [exec_writeRow_full, writeReg_of_readOnly h]

theorem chanOffset_eq (c : Ch) : chanOffset c = 4 * c.bit.toNat := by
  cases c <;> rfl

/-- The byte address of a word of an OUTBUF window: the window in bits 15:14, the word in bits 13:2. -/
theorem regAddr_outbuf_eq_append (j : BitVec 12) :
    regAddr (.outbuf .left j) = 1#2 ++ j ++ 0#2 ∧ regAddr (.outbuf .right j) = 2#2 ++ j ++ 0#2 := by
  obtain ⟨hleft, hright⟩ := regAddr_outbuf_toNat j
  have hcat (b : BitVec 2) : (b ++ j ++ 0#2).toNat = 0x4000 * b.toNat + 4 * j.toNat := by
    rw [BitVec.toNat_append, BitVec.toNat_append, ← Nat.shiftLeft_add_eq_or_of_lt (by decide),
      ← Nat.shiftLeft_add_eq_or_of_lt j.isLt, Nat.shiftLeft_eq, Nat.shiftLeft_eq, BitVec.toNat_zero]
    omega
  exact ⟨BitVec.eq_of_toNat_eq (hleft.trans (hcat 1#2).symm), BitVec.eq_of_toNat_eq (hright.trans (hcat 2#2).symm)⟩

/-- Settles O18: every row is the write row of a read-only register, at that register's address. -/
theorem writesOfReadOnlyRegistersAreRefused : Obligations.WritesOfReadOnlyRegistersAreRefused := by
  intro v s
  have refused (r : Reg) (h : readOnlyReg r = true) {a : Addr} (ha : regAddr r = a) :
      exec (writeRow 0xF#4 v r) s = .next (busErrorState 4#8 a none s) :=
    ha ▸ exec_writeRow_of_readOnly h v s
  refine ⟨refused .id rfl rfl, refused .params rfl rfl, refused .chainLive rfl rfl, refused .cmdResult rfl rfl,
    refused .fftCfg rfl rfl, refused .accLenLive rfl rfl, refused .errInfo rfl rfl, fun c => ?channel,
    fun i k => ?coefLive, fun k => refused (.coefLive 8 k) rfl ?coefLive8, fun j => ?outbuf⟩
  case channel =>
    rw [← chanOffset_eq]
    exact ⟨refused (.fifoaLevel c) rfl rfl, refused (.fifobLevel c) rfl rfl, refused (.fifoaPtr c) rfl rfl,
      refused (.fifobPtr c) rfl rfl, refused (.outbufInfo c) rfl rfl, refused (.histCnt c) rfl rfl⟩
  case coefLive =>
    obtain ⟨-, hrow⟩ := writeRow_secOf07 i k 0xF#4 v
    rw [← hrow]
    exact refused (.coefLive (secOf07 i) k) rfl rfl
  case coefLive8 => cases k <;> rfl
  case outbuf =>
    obtain ⟨hleft, hright⟩ := regAddr_outbuf_eq_append j
    exact ⟨refused (.outbuf .left j) rfl hleft, refused (.outbuf .right j) rfl hright⟩

/-! ## Accesses to no register -/

/-- Settles O20: the row's write passes the strobe check before it is refused as unmapped. -/
theorem unmappedAccessesAreRefused : Obligations.UnmappedAccessesAreRefused := by
  refine fun a v s => ⟨?read, ?write, fun st hst => ?partialWrite⟩
  case read => exact congrArg Host.Outcome.next (raise_of_bus rfl .rd a s)
  case write =>
    rw [exec, execBusUnmapped, strobed_full, raise_of_bus rfl]
    rfl
  case partialWrite =>
    rw [exec, execBusUnmapped, strobed_partial hst, raise_of_bus rfl]
    rfl

end Sys2Proof.Machine
end

section
/-!
PROOF. The control and status registers, and the commands NOP and PREPARE (44_control R392 to R404).
-/

namespace Sys2Proof.Machine

open Sys2Proof.Safety

/-! ## CMD -/

/-- Settles O15: the write rule of CMD runs the decoded command, and its strobe check is that of every register. -/
theorem writeOfCmdRunsTheCommandWord : Obligations.WriteOfCmdRunsTheCommandWord := fun w s =>
  ⟨⟨runCommand w s, exec_writeRow_full w .cmd s, exec_cmdRow w s⟩,
    fun st hst => partialWritesAreRefused .cmd st w s hst⟩

/-- Settles O8: NOP is nothing but the end of a command that is not refused. -/
theorem nopOnlyMarksTheResult : Obligations.NopOnlyMarksTheResult := by
  intro s
  rw [exec, execNop, doNop, finishCmd, ackWrite]

/-! ## PREPARE -/

theorem doPrepare_of_stopped {s : State} (hrun : s.ctrl.run = false) (hen : s.ctrl.fftEn = false) :
    doPrepare s = finishCmd 1#2 0x02#8 0#8 (prepareState s) := by
  rw [doPrepare, hrun, hen, if_neg (by decide)]

theorem doPrepare_of_running {s : State} (h : s.ctrl.run = true ∨ s.ctrl.fftEn = true) :
    doPrepare s = refusedCmdState 6#8 0x02#8 s := by
  rw [doPrepare, if_pos h, refuseCmd_eq_refusedCmdState rfl, cmdOpc_cmdWord]
  rfl

/-- Settles O10: where it is allowed, PREPARE is one update of the fields it names, a waiting commit included. -/
theorem prepareReinitialises : Obligations.PrepareReinitialises := by
  refine fun s => ⟨fun hrun hen => ?stopped, fun h => congrArg Host.Outcome.next (doPrepare_of_running h)⟩
  case stopped =>
    rw [exec, execPrepare, doPrepare_of_stopped hrun hen, prepareState_eq]
    rfl

/-! ## Reads -/

/-- Settles O21: each row answers with its register's word, whose fields lie as the model's layouts put them. -/
theorem controlRegistersReadBack : Obligations.ControlRegistersReadBack := fun s =>
  ⟨exec_readRow .id s, exec_readRow .params s, exec_readRow .ctrl s, exec_readRow .status s, exec_readRow .cmd s,
    exec_readRow .cmdResult s, exec_readRow .errInfo s⟩

/-! ## Writes -/

/-- Settles O27: the write rule of CTRL takes three bits of the word. -/
theorem writeCtrlStoresThreeBits : Obligations.WriteCtrlStoresThreeBits := fun v s =>
  exec_writeRow_full v .ctrl s

/-- A sticky bit after a write of `w` to it: written with 1 it clears. -/
theorem and_not_eq_ite (b w : Bool) : (b && !w) = if w = true then false else b := by
  cases w <;> simp

/-- Settles O28: the write rule of STATUS touches its two sticky bits. -/
theorem writeStatusClearsStickyBits : Obligations.WriteStatusClearsStickyBits := by
  intro v s
  rw [← and_not_eq_ite, ← and_not_eq_ite]
  exact exec_writeRow_full v .status s

end Sys2Proof.Machine
end

section
/-!
PROOF. No operation and no step ends in a fault or a refusal (60_exceptions R440, R446).
-/

namespace Sys2Proof.Machine

/-- Every operation answers a next state: an error of the bus is a state with its response and its bookkeeping
(R440), and neither the stream nor the internal steps raise one (R446). -/
theorem exec_eq_next (i : Instr) (s : State) : ∃ t, exec i s = .next t := by
  cases i with
  | nop | commit | prepare | clearState | setFftOrder | pullFrame | pullLatest | cmdReserved => exact ⟨_, rfl⟩
  | frame | take => exact ⟨_, rfl⟩
  | ingest | apply | syncAck | syncW2R | syncR2W | fftStep => exact ⟨_, rfl⟩
  | busUnmapped acc a =>
    cases acc with
    | rd => exact ⟨raise .rd .unmapped a s, rfl⟩
    | wr st v => exact ⟨strobed a st v (raise (.wr st v) .unmapped a) s, rfl⟩
  | busReadChecks a => exact ⟨busRead a s, rfl⟩
  | busWriteChecks a st v => exact ⟨busWrite a st v s, rfl⟩
  | _ => exact ⟨_, rfl⟩

/-- An agent's move answers a next state: its operation's, or its idle move's. -/
theorem runTurn_eq_next (turn : Config.Turn) (s : State) : ∃ t, runTurn turn s = .next t := by
  cases h : fetch turn s with
  | none => exact ⟨idle turn s, runTurn_of_no_fetch h⟩
  | some i =>
    rw [runTurn_of_fetch h]
    exact exec_eq_next i (consume turn s)

/-- Settles O7: no arm of `exec` answers anything but a next state, and a step is the move of one agent. -/
theorem noStepStopsTheMachine : Obligations.NoStepStopsTheMachine :=
  ⟨exec_eq_next, fun s => runTurn_eq_next (nextTurn s).1 (nextTurn s).2⟩

end Sys2Proof.Machine
end

section
/-!
PROOF. The internal steps come to an end, what is settled then, and PREPARE and the chain in the reset state
(70_reset R482, R495).
-/

namespace Sys2Proof.Machine

open Sys2Proof.Safety

/-! ## The internal steps left to do -/

/-- A bound on the internal steps a FIFO-A still allows: a pull of each unread block and the SYNC_R2W after it, and
one step for each view that is behind its pointer. -/
def fifoWork (f : FifoA) : Nat :=
  2 * trueLevelA f + (f.wsync != gray f.wr).toNat + (f.rsync != gray f.rd).toNat

/-- A bound on the internal steps that are left without host activity (70_reset R495): those of the handshake, then
those of both channels. -/
def internalWork (s : State) : Nat :=
  s.pendA.toNat + s.pendC.toNat + fifoWork (getCh s .left).fa + fifoWork (getCh s .right).fa

theorem internalWork_setCh_lt {s : State} {c : Ch} {k : Chan} (h : fifoWork k.fa < fifoWork (getCh s c).fa) :
    internalWork (setCh s c k) < internalWork s := by
  cases c with
  | left => exact Nat.add_lt_add_right (Nat.add_lt_add_left h _) _
  | right => exact Nat.add_lt_add_left h _

/-! ## Each enabled step lowers the bound -/

theorem fifoWork_syncW2RFifo_lt {f : FifoA} (h : (f.wsync != gray f.wr) = true) :
    fifoWork (syncW2RFifo f) < fifoWork f := by
  simp [fifoWork, syncW2RFifo, trueLevelA, h]

theorem fifoWork_syncR2WFifo_lt {f : FifoA} (h : (f.rsync != gray f.rd) = true) :
    fifoWork (syncR2WFifo f) < fifoWork f := by
  simp [fifoWork, syncR2WFifo, trueLevelA, h]

/-- A pull may leave the producer's view behind, which costs one step of the two that the block stood for. -/
theorem fifoWork_rd_succ_lt {f : FifoA} (h : 0 < trueLevelA f) : fifoWork { f with rd := f.rd + 1 } < fifoWork f := by
  have hlevel : trueLevelA { f with rd := f.rd + 1 } = trueLevelA f - 1 := ptr_sub_succ h
  have hbehind : (f.rsync != gray (f.rd + 1)).toNat ≤ 1 := Bool.toNat_le _
  simp only [fifoWork, hlevel]
  omega

/-- Where the engine sees a block, FFT_STEP pulls it, whatever becomes of the frame. -/
theorem fftChan_fa_of_visible {k : Chan} (h : 0 < levelR k.fa) (size : Nat) (f : F32) :
    (fftChan size f k).fa = { k.fa with rd := k.fa.rd + 1 } := by
  rcases fftChan_cases size f k with ⟨h0, -⟩ | ⟨-, k', rfl, ⟨-, e⟩ | ⟨-, e⟩⟩
  · omega
  · exact congrArg Chan.fa e
  · exact congrArg Chan.fa e

/-- The handshake, the pulls and the views each get nearer to their end by an enabled step: PEND_A and PEND_C fall, a
pull takes one unread block, and a view that was behind catches up. -/
theorem internalWork_lt_of_enabled {s t : State} {i : Instr} (hl : LevelsOk s) (hen : internalEnabled s i = true)
    (h : exec i s = .next t) : internalWork t < internalWork s := by
  cases i with
  | apply =>
    obtain ⟨hp, ha⟩ := Bool.and_eq_true_iff.mp hen
    obtain ⟨happly, -⟩ := commitLandsAndIsAcknowledged s
    rw [happly hp ha] at h
    obtain rfl := Host.Outcome.next.inj h
    simp [internalWork, hp]
  | syncAck =>
    obtain ⟨hc, hp⟩ := Bool.and_eq_true_iff.mp hen
    obtain ⟨-, hack⟩ := commitLandsAndIsAcknowledged s
    rw [hack hc ((Bool.not_eq_true' _).mp hp)] at h
    obtain rfl := Host.Outcome.next.inj h
    simp [internalWork, hc]
  | syncW2R c =>
    obtain rfl := Host.Outcome.next.inj h
    exact internalWork_setCh_lt (fifoWork_syncW2RFifo_lt hen)
  | syncR2W c =>
    obtain rfl := Host.Outcome.next.inj h
    exact internalWork_setCh_lt (fifoWork_syncR2WFifo_lt hen)
  | fftStep c =>
    obtain ⟨hfft, hvis⟩ := Bool.and_eq_true_iff.mp hen
    have hvis := of_decide_eq_true hvis
    obtain ⟨⟨hview, -⟩, -⟩ := hl c
    rw [exec_fftStep_of_fftChan hfft rfl] at h
    obtain rfl := Host.Outcome.next.inj h
    refine internalWork_setCh_lt ?_
    rw [fftChan_fa_of_visible hvis]
    exact fifoWork_rd_succ_lt (hvis.trans_le hview)
  | _ => cases hen

/-- Settles O57: the bound on the steps that are left is the measure. -/
theorem internalStepsComeToAnEnd : Obligations.InternalStepsComeToAnEnd :=
  ⟨internalWork, fun _ _ _ => internalWork_lt_of_enabled⟩

/-! ## What is settled without an enabled step -/

theorem wsync_of_quiescent {s : State} (h : Quiescent s) (c : Ch) :
    (getCh s c).fa.wsync = gray (getCh s c).fa.wr :=
  bne_eq_false_iff_eq.mp (h (.syncW2R c))

theorem rsync_of_quiescent {s : State} (h : Quiescent s) (c : Ch) :
    (getCh s c).fa.rsync = gray (getCh s c).fa.rd :=
  bne_eq_false_iff_eq.mp (h (.syncR2W c))

/-- A commit still pending is not yet installed, for SYNC_ACK is not enabled, and waits for a block boundary, for
APPLY is not enabled. -/
theorem handshake_of_quiescent {s : State} (h : Quiescent s) :
    s.pendC = false ∨ s.pendA = true ∧ s.atb = false := by
  have happly : (s.pendA && s.atb) = false := h .apply
  have hack : (s.pendC && !s.pendA) = false := h .syncAck
  cases hc : s.pendC with
  | false => exact .inl rfl
  | true =>
    have hp : s.pendA = true := by simpa [hc] using hack
    exact .inr ⟨hp, by simpa [hp] using happly⟩

/-- A view that has caught up shows the true occupancy. -/
theorem levelR_of_wsync {f : FifoA} (h : f.wsync = gray f.wr) : levelR f = trueLevelA f := by
  rw [levelR, h, gray2bin_gray, trueLevelA]

/-- The running engine sees no block, and its view is exact. -/
theorem contentsA_of_quiescent {s : State} (h : Quiescent s) (hfft : s.ctrl.fftEn = true) (c : Ch) :
    contentsA (getCh s c).fa = [] := by
  have hfftStep : (s.ctrl.fftEn && decide (0 < levelR (getCh s c).fa)) = false := h (.fftStep c)
  have hempty : levelR (getCh s c).fa = 0 := by simpa [hfft] using hfftStep
  rw [← List.length_eq_zero_iff, contentsA_length, ← levelR_of_wsync (wsync_of_quiescent h c), hempty]

/-- Settles O58: each clause is what one or two steps that are not enabled say. -/
theorem quiescentStatesAreSettled : Obligations.QuiescentStatesAreSettled := by
  intro s _ h
  refine ⟨fun c => ⟨wsync_of_quiescent h c, rsync_of_quiescent h c⟩, handshake_of_quiescent h, ?drained⟩
  case drained =>
    cases hfft : s.ctrl.fftEn with
    | false => exact .inl rfl
    | true => exact .inr (contentsA_of_quiescent h hfft)

/-! ## PREPARE and the chain in the reset state -/

theorem prepareState_reset : prepareState State.reset = State.reset := rfl

/-- The three bypasses are set after reset (10_state R37), so no section runs. -/
theorem chain_reset (st : Vector Delay 9) (x : F32) : chain State.reset.lv st x = (x, st) := by
  rw [chain_eq_banks, chainFrom_lowCut_of_bypass rfl, chainFrom_peak_of_bypass rfl, chainFrom_highCut_of_bypass rfl]

/-- Settles O59: PREPARE is allowed after reset and finds everything as it would leave it. -/
theorem resetIsPrepared : Obligations.ResetIsPrepared := by
  refine ⟨?prepare, chain_reset⟩
  case prepare =>
    rw [exec, execPrepare, doPrepare_of_stopped rfl rfl, prepareState_reset]
    rfl

end Sys2Proof.Machine
end
